-- ==== Sys2Proof/Word.lean ====
section
/-! DEFINITION. The word types of the device: every register and descriptor word is an unsigned 32-bit word (R7). -/

namespace Sys2Proof

/-- One byte of a frame, a buffer or guest memory. -/
abbrev Byte := BitVec 8

/-- A PHY register (R15). -/
abbrev Half := BitVec 16

/-- A device register, a descriptor word, an address or an operation word (R6, R7, R60). -/
abbrev Word := BitVec 32

/-- The widest value a bus access can carry (R60: SZ = 3 is 8 bytes). -/
abbrev DWord := BitVec 64

/-- A byte offset in the register window, the field OFF of an operation word (R60). -/
abbrev Offset := BitVec 13

end Sys2Proof
end

