-- ==== Sys2Proof/Config.lean ====
section
/-! DEFINITION. The implementation parameters of R4, and the values the spec leaves OPEN, as constants with no body.
A device instance carries its parameters in its own record (R13), so a statement about every state is a statement
about every value of every parameter (log 5). -/

namespace Sys2Proof

/-- VARIANT: which of the two end-of-ring bit positions the instance uses (R4, R78). -/
inductive Variant where
  | faraday
  | aspeed
deriving DecidableEq, Repr, Inhabited

/-- The six bytes of a MAC address, `b0` the first byte on the wire (R20). -/
structure MacAddr where
  b0 : Byte
  b1 : Byte
  b2 : Byte
  b3 : Byte
  b4 : Byte
  b5 : Byte
deriving DecidableEq, Repr, Inhabited

/-- A range of addresses: `size` bytes from `base`. -/
structure Region where
  base : Word
  size : Nat
deriving DecidableEq, Repr, Inhabited

/-- What the bus answers for a read at an address with no memory (R40): the default zero byte, or the platform's own
defined bytes, of which nothing is known (log 7). -/
inductive BusFill where
  | zero
  | platform (k : Nat)
deriving DecidableEq, Repr, Inhabited

/-- BUS: the address ranges that hold no memory, and what they read as (R4, R40, D38). -/
structure Bus where
  holes : List Region
  fill  : BusFill
deriving DecidableEq, Repr, Inhabited

/-- FCS: the reference CRC of R9, or a function of which nothing is known (R4, D26, log 6). -/
inductive FcsChoice where
  | ieee
  | platform (k : Nat)
deriving DecidableEq, Repr, Inhabited

/-- The parameters of one device instance (R4, R35). -/
structure Params where
  variant     : Variant
  base        : Word
  macAddrInit : MacAddr
  linkInit    : Bool
  phyId1      : Half
  phyId2      : Half
  fcs         : FcsChoice
  bus         : Bus
deriving DecidableEq, Repr, Inhabited

/-- The parameters of the instance that `State.reset` is: OPEN in the spec, so nothing is known of them (R4, log 5). -/
opaque Config.params : Params

/-- The CRC words of the FCS functions that are not the reference one: entry `k` is some function of the frame bytes
(R4: "the CRC trailer", OPEN; log 6). Its four bytes are emitted least significant first. -/
opaque Config.fcsWord : Nat → List Byte → Word

/-- The bytes a platform's bus answers at addresses with no memory: entry `k` is some function of the address
(R4, R40: "defined" results, OPEN; log 7). -/
opaque Config.busByte : Nat → Nat → Byte

end Sys2Proof
end

