-- ==== Sys2Proof/Syntax.lean ====
section
/-! DEFINITION. The operations of the device (R60-R63, R81, R82): one constructor for each of the 44 rows of
spec/opcode_table.json, with the operands that accompany its operation word. -/

namespace Sys2Proof

/-- The thirteen registers of the register window (R16, R63). -/
inductive Reg where
  | isr | ier | madr | ladr | nptxpd | rxpd | nptxrBadr | rxrBadr | aptc | rbsr | maccr | phycr | phydata
deriving DecidableEq, Repr

/-- An operation as it is presented to the device (R60): the 32-bit operation word and its out-of-band operands. A
write carries `value` (the access size's low bits of it count), DELIVER carries `frame`, LINK carries `up`; an
operation reads no operand it does not carry. -/
structure Request where
  word  : Word
  value : DWord
  frame : List Byte
  up    : Bool
deriving DecidableEq, Repr

/-- The operations. A constructor's name is its row's mnemonic; `value`, `frame` and `up` are the operands of R60, `off`
is the field OFF where the row leaves it open. -/
inductive Instr where
  | rdIsr
  | wrIsr (value : Word)
  | rdIer
  | wrIer (value : Word)
  | rdMadr
  | wrMadr (value : Word)
  | rdLadr
  | wrLadr (value : Word)
  | rdNptxpd
  | wrNptxpd (value : Word)
  | rdRxpd
  | wrRxpd (value : Word)
  | rdNptxrBadr
  | wrNptxrBadr (value : Word)
  | rdRxrBadr
  | wrRxrBadr (value : Word)
  | rdAptc
  | wrAptc (value : Word)
  | rdRbsr
  | wrRbsr (value : Word)
  | rdMaccr
  | wrMaccr (value : Word)
  | rdPhycr
  | wrPhycr (value : Word)
  | rdPhydata
  | wrPhydata (value : Word)
  | hostDeliver (frame : List Byte)
  | hostLink (up : Bool)
  | hostReset
  | hostCanReceive
  | badAccessRdB (off : Offset)
  | badAccessRdH (off : Offset)
  | badAccessRdD (off : Offset)
  | badAccessRdMis1 (off : Offset)
  | badAccessRdMis2 (off : Offset)
  | badAccessRdMis3 (off : Offset)
  | badAccessWrB (off : Offset) (value : Byte)
  | badAccessWrH (off : Offset) (value : Half)
  | badAccessWrD (off : Offset) (value : DWord)
  | badAccessWrMis1 (off : Offset) (value : Word)
  | badAccessWrMis2 (off : Offset) (value : Word)
  | badAccessWrMis3 (off : Offset) (value : Word)
  | rdUnmapped (off : Offset)
  | wrUnmapped (off : Offset) (value : Word)
deriving DecidableEq, Repr

end Sys2Proof
end

