-- ==== Sys2Proof/Machine/RegMap.lean ====
section
/-! DEFINITION. The register map: the offset of each register (R63) and the register window (R52). -/

namespace Sys2Proof.Machine

/-- The byte offset of a register in the window (R63). -/
def regOffset : Reg → Offset
  | .isr       => 0x00#13
  | .ier       => 0x04#13
  | .madr      => 0x08#13
  | .ladr      => 0x0C#13
  | .nptxpd    => 0x18#13
  | .rxpd      => 0x1C#13
  | .nptxrBadr => 0x20#13
  | .rxrBadr   => 0x24#13
  | .aptc      => 0x34#13
  | .rbsr      => 0x4C#13
  | .maccr     => 0x50#13
  | .phycr     => 0x60#13
  | .phydata   => 0x64#13

/-- Every register, in the order of R63's table. -/
def allRegs : List Reg :=
  [.isr, .ier, .madr, .ladr, .nptxpd, .rxpd, .nptxrBadr, .rxrBadr, .aptc, .rbsr, .maccr, .phycr, .phydata]

/-- The register an offset selects: the one whose offset equals OFF, none if it is unlisted (R61, R63). -/
def regAt (off : Offset) : Option Reg := allRegs.find? (fun r => regOffset r == off)

/-- The two low bits of an offset: a valid access has them 0 (R64). -/
def offLow (off : Offset) : BitVec 2 := off.extractLsb' 0 2

/-- The size of the register window in bytes (R52, D2). -/
def windowSize : Nat := 0x2000

/-- The offset of a platform address in the register window of an instance, none outside the window (R52, D52). -/
def windowOffset (p : Params) (addr : Word) : Option Offset :=
  if p.base.toNat ≤ addr.toNat ∧ addr.toNat < p.base.toNat + windowSize then
    some (BitVec.ofNat 13 (addr.toNat - p.base.toNat))
  else none

end Sys2Proof.Machine
end

