-- ==== Sys2Proof/WellFormed.lean ====
section
/-! DEFINITION. Which terms of `Instr` are operations: the offsets a row of the opcode table admits (R64, R81). -/

namespace Sys2Proof

open Sys2Proof.Machine

/-- A term is well formed when its offset is one its row's mask and match admit and no row of a better priority takes:
a misaligned access has the low bits its row names (R111), an unmapped access is aligned and at an unlisted offset
(R112, R113). Every other operand is unrestricted. -/
def Instr.wellFormed : Instr → Bool
  | .badAccessRdMis1 off => offLow off == 1#2
  | .badAccessRdMis2 off => offLow off == 2#2
  | .badAccessRdMis3 off => offLow off == 3#2
  | .badAccessWrMis1 off _ => offLow off == 1#2
  | .badAccessWrMis2 off _ => offLow off == 2#2
  | .badAccessWrMis3 off _ => offLow off == 3#2
  | .rdUnmapped off => offLow off == 0#2 && (regAt off).isNone
  | .wrUnmapped off _ => offLow off == 0#2 && (regAt off).isNone
  | .badAccessRdB _ | .badAccessRdH _ | .badAccessRdD _ => true
  | .badAccessWrB _ _ | .badAccessWrH _ _ | .badAccessWrD _ _ => true
  | .rdIsr | .rdIer | .rdMadr | .rdLadr | .rdNptxpd | .rdRxpd | .rdNptxrBadr | .rdRxrBadr
  | .rdAptc | .rdRbsr | .rdMaccr | .rdPhycr | .rdPhydata => true
  | .wrIsr _ | .wrIer _ | .wrMadr _ | .wrLadr _ | .wrNptxpd _ | .wrRxpd _ | .wrNptxrBadr _ | .wrRxrBadr _
  | .wrAptc _ | .wrRbsr _ | .wrMaccr _ | .wrPhycr _ | .wrPhydata _ => true
  | .hostDeliver _ | .hostLink _ | .hostReset | .hostCanReceive => true

end Sys2Proof
end

