-- ==== Sys2Proof/Decode.lean ====
section
/-! DEFINITION. Decoding an operation (R60-R64, R81, R84) and encoding one. The decoder reads the fields of the operation
word; `opcodeTable` is spec/opcode_table.json in its priority order, against which the decoder is stated to agree. -/

namespace Sys2Proof

open Sys2Proof.Machine

/-- Why a word is no operation (R81: "a decoder refuses them by name"). -/
inductive DecodeError where
  /-- an MMIO word with bits [30:16] not zero -/
  | mmioReservedBits (word : Word)
  /-- a HOST word with bits [30:4] not zero -/
  | hostReservedBits (word : Word)
  /-- a HOST word with EV of 4 or more -/
  | hostReservedEvent (word : Word)
deriving DecidableEq, Repr

/-! ### The fields of the operation word (R60) -/

/-- C: 0 is a bus access, 1 a host event. -/
def wordClass (w : Word) : Bool := w.getLsbD 31

/-- Bits [30:16] of a bus access, which must be zero. -/
def mmioZeros (w : Word) : BitVec 15 := w.extractLsb' 16 15

/-- SZ: the access size. -/
def wordSize (w : Word) : BitVec 2 := w.extractLsb' 14 2

/-- D: 0 is a read, 1 a write. -/
def wordDir (w : Word) : Bool := w.getLsbD 13

/-- OFF: the byte offset in the register window. -/
def wordOff (w : Word) : Offset := w.extractLsb' 0 13

/-- Bits [30:4] of a host event, which must be zero. -/
def hostZeros (w : Word) : BitVec 27 := w.extractLsb' 4 27

/-- EV: the host event. -/
def wordEvent (w : Word) : BitVec 4 := w.extractLsb' 0 4

/-! ### Decoding -/

/-- A valid 4-byte read of a register (R85 ... R109). -/
def readOp : Reg → Instr
  | .isr => .rdIsr
  | .ier => .rdIer
  | .madr => .rdMadr
  | .ladr => .rdLadr
  | .nptxpd => .rdNptxpd
  | .rxpd => .rdRxpd
  | .nptxrBadr => .rdNptxrBadr
  | .rxrBadr => .rdRxrBadr
  | .aptc => .rdAptc
  | .rbsr => .rdRbsr
  | .maccr => .rdMaccr
  | .phycr => .rdPhycr
  | .phydata => .rdPhydata

/-- A valid 4-byte write of a register (R86 ... R110). -/
def writeOp (v : Word) : Reg → Instr
  | .isr => .wrIsr v
  | .ier => .wrIer v
  | .madr => .wrMadr v
  | .ladr => .wrLadr v
  | .nptxpd => .wrNptxpd v
  | .rxpd => .wrRxpd v
  | .nptxrBadr => .wrNptxrBadr v
  | .rxrBadr => .wrRxrBadr v
  | .aptc => .wrAptc v
  | .rbsr => .wrRbsr v
  | .maccr => .wrMaccr v
  | .phycr => .wrPhycr v
  | .phydata => .wrPhydata v

/-- A read access: SZ and OFF select the row (R64, R111, R112). -/
def decodeRead (sz : BitVec 2) (off : Offset) : Instr :=
  match sz.toNat with
  | 0 => .badAccessRdB off
  | 1 => .badAccessRdH off
  | 2 =>
    match (offLow off).toNat with
    | 0 => match regAt off with
      | some r => readOp r
      | none => .rdUnmapped off
    | 1 => .badAccessRdMis1 off
    | 2 => .badAccessRdMis2 off
    | _ => .badAccessRdMis3 off
  | _ => .badAccessRdD off

/-- A write access: as a read, with the value of the access size (R60, R111, R113). -/
def decodeWrite (sz : BitVec 2) (off : Offset) (v : DWord) : Instr :=
  match sz.toNat with
  | 0 => .badAccessWrB off (v.setWidth 8)
  | 1 => .badAccessWrH off (v.setWidth 16)
  | 2 =>
    match (offLow off).toNat with
    | 0 => match regAt off with
      | some r => writeOp (v.setWidth 32) r
      | none => .wrUnmapped off (v.setWidth 32)
    | 1 => .badAccessWrMis1 off (v.setWidth 32)
    | 2 => .badAccessWrMis2 off (v.setWidth 32)
    | _ => .badAccessWrMis3 off (v.setWidth 32)
  | _ => .badAccessWrD off v

/-- A host event by its number EV (R60, R62). -/
def decodeHost (r : Request) : Except DecodeError Instr :=
  match (wordEvent r.word).toNat with
  | 0 => .ok (.hostDeliver r.frame)
  | 1 => .ok (.hostLink r.up)
  | 2 => .ok .hostReset
  | 3 => .ok .hostCanReceive
  | _ => .error (.hostReservedEvent r.word)

/-- The operation a request is, or the name of what makes its word no operation (R81, R84). -/
def decode (r : Request) : Except DecodeError Instr :=
  if wordClass r.word then
    if hostZeros r.word = 0 then decodeHost r else .error (.hostReservedBits r.word)
  else if mmioZeros r.word = 0 then
    .ok (if wordDir r.word then decodeWrite (wordSize r.word) (wordOff r.word) r.value
         else decodeRead (wordSize r.word) (wordOff r.word))
  else .error (.mmioReservedBits r.word)

/-- A request that is an operation word alone: every operand bit zero, no frame bytes, `up` false. -/
def bareRequest (nbits w : Nat) : Request :=
  { word := BitVec.ofNat 32 (w % 2 ^ nbits), value := 0#64, frame := [], up := false }

/-- The decoder on a word of the opcode table, its out-of-band operands zero. -/
def decodeTableWord (nbits w : Nat) : Option Instr :=
  match decode (bareRequest nbits w) with
  | .ok i => some i
  | .error _ => none

/-! ### Encoding -/

/-- An MMIO operation word from its fields (R60). -/
def mmioWord (sz : BitVec 2) (dir : Bool) (off : Offset) : Word :=
  (0#16 ++ sz ++ BitVec.ofBool dir ++ off : BitVec 32)

/-- A HOST operation word from its event number (R60). -/
def hostWord (ev : BitVec 4) : Word := (1#1 ++ 0#27 ++ ev : BitVec 32)

/-- A read request: no operand (R60). -/
def readRequest (sz : BitVec 2) (off : Offset) : Request :=
  { word := mmioWord sz false off, value := 0#64, frame := [], up := false }

/-- A write request with its value. -/
def writeRequest (sz : BitVec 2) (off : Offset) (v : DWord) : Request :=
  { word := mmioWord sz true off, value := v, frame := [], up := false }

/-- A host event with its operands. -/
def hostRequest (ev : BitVec 4) (frame : List Byte) (up : Bool) : Request :=
  { word := hostWord ev, value := 0#64, frame := frame, up := up }

/-- The request that presents an operation: its word from the format of R60 and the register map of R63, and its
operands. -/
def encode : Instr → Request
  | .rdIsr => readRequest 2#2 (regOffset .isr)
  | .rdIer => readRequest 2#2 (regOffset .ier)
  | .rdMadr => readRequest 2#2 (regOffset .madr)
  | .rdLadr => readRequest 2#2 (regOffset .ladr)
  | .rdNptxpd => readRequest 2#2 (regOffset .nptxpd)
  | .rdRxpd => readRequest 2#2 (regOffset .rxpd)
  | .rdNptxrBadr => readRequest 2#2 (regOffset .nptxrBadr)
  | .rdRxrBadr => readRequest 2#2 (regOffset .rxrBadr)
  | .rdAptc => readRequest 2#2 (regOffset .aptc)
  | .rdRbsr => readRequest 2#2 (regOffset .rbsr)
  | .rdMaccr => readRequest 2#2 (regOffset .maccr)
  | .rdPhycr => readRequest 2#2 (regOffset .phycr)
  | .rdPhydata => readRequest 2#2 (regOffset .phydata)
  | .wrIsr v => writeRequest 2#2 (regOffset .isr) (v.setWidth 64)
  | .wrIer v => writeRequest 2#2 (regOffset .ier) (v.setWidth 64)
  | .wrMadr v => writeRequest 2#2 (regOffset .madr) (v.setWidth 64)
  | .wrLadr v => writeRequest 2#2 (regOffset .ladr) (v.setWidth 64)
  | .wrNptxpd v => writeRequest 2#2 (regOffset .nptxpd) (v.setWidth 64)
  | .wrRxpd v => writeRequest 2#2 (regOffset .rxpd) (v.setWidth 64)
  | .wrNptxrBadr v => writeRequest 2#2 (regOffset .nptxrBadr) (v.setWidth 64)
  | .wrRxrBadr v => writeRequest 2#2 (regOffset .rxrBadr) (v.setWidth 64)
  | .wrAptc v => writeRequest 2#2 (regOffset .aptc) (v.setWidth 64)
  | .wrRbsr v => writeRequest 2#2 (regOffset .rbsr) (v.setWidth 64)
  | .wrMaccr v => writeRequest 2#2 (regOffset .maccr) (v.setWidth 64)
  | .wrPhycr v => writeRequest 2#2 (regOffset .phycr) (v.setWidth 64)
  | .wrPhydata v => writeRequest 2#2 (regOffset .phydata) (v.setWidth 64)
  | .hostDeliver frame => hostRequest 0#4 frame false
  | .hostLink up => hostRequest 1#4 [] up
  | .hostReset => hostRequest 2#4 [] false
  | .hostCanReceive => hostRequest 3#4 [] false
  | .badAccessRdB off => readRequest 0#2 off
  | .badAccessRdH off => readRequest 1#2 off
  | .badAccessRdD off => readRequest 3#2 off
  | .badAccessRdMis1 off => readRequest 2#2 off
  | .badAccessRdMis2 off => readRequest 2#2 off
  | .badAccessRdMis3 off => readRequest 2#2 off
  | .badAccessWrB off v => writeRequest 0#2 off (v.setWidth 64)
  | .badAccessWrH off v => writeRequest 1#2 off (v.setWidth 64)
  | .badAccessWrD off v => writeRequest 3#2 off v
  | .badAccessWrMis1 off v => writeRequest 2#2 off (v.setWidth 64)
  | .badAccessWrMis2 off v => writeRequest 2#2 off (v.setWidth 64)
  | .badAccessWrMis3 off v => writeRequest 2#2 off (v.setWidth 64)
  | .rdUnmapped off => readRequest 2#2 off
  | .wrUnmapped off v => writeRequest 2#2 off (v.setWidth 64)

/-! ### The opcode table -/

/-- One row of spec/opcode_table.json: a word is the row's when `word &&& mask = pattern` and no row of a better priority
takes it (R84). -/
structure OpcodeRow where
  mnemonic : String
  mask     : Word
  pattern  : Word
deriving DecidableEq, Repr

/-- The rows of priority 0: the exact register accesses and the host events (R63, R62). -/
def exactRows : List OpcodeRow :=
  [⟨"RD_ISR", 0xFFFFFFFF#32, 0x00008000#32⟩,
   ⟨"WR_ISR", 0xFFFFFFFF#32, 0x0000A000#32⟩,
   ⟨"RD_IER", 0xFFFFFFFF#32, 0x00008004#32⟩,
   ⟨"WR_IER", 0xFFFFFFFF#32, 0x0000A004#32⟩,
   ⟨"RD_MADR", 0xFFFFFFFF#32, 0x00008008#32⟩,
   ⟨"WR_MADR", 0xFFFFFFFF#32, 0x0000A008#32⟩,
   ⟨"RD_LADR", 0xFFFFFFFF#32, 0x0000800C#32⟩,
   ⟨"WR_LADR", 0xFFFFFFFF#32, 0x0000A00C#32⟩,
   ⟨"RD_NPTXPD", 0xFFFFFFFF#32, 0x00008018#32⟩,
   ⟨"WR_NPTXPD", 0xFFFFFFFF#32, 0x0000A018#32⟩,
   ⟨"RD_RXPD", 0xFFFFFFFF#32, 0x0000801C#32⟩,
   ⟨"WR_RXPD", 0xFFFFFFFF#32, 0x0000A01C#32⟩] ++
  [⟨"RD_NPTXR_BADR", 0xFFFFFFFF#32, 0x00008020#32⟩,
   ⟨"WR_NPTXR_BADR", 0xFFFFFFFF#32, 0x0000A020#32⟩,
   ⟨"RD_RXR_BADR", 0xFFFFFFFF#32, 0x00008024#32⟩,
   ⟨"WR_RXR_BADR", 0xFFFFFFFF#32, 0x0000A024#32⟩,
   ⟨"RD_APTC", 0xFFFFFFFF#32, 0x00008034#32⟩,
   ⟨"WR_APTC", 0xFFFFFFFF#32, 0x0000A034#32⟩,
   ⟨"RD_RBSR", 0xFFFFFFFF#32, 0x0000804C#32⟩,
   ⟨"WR_RBSR", 0xFFFFFFFF#32, 0x0000A04C#32⟩,
   ⟨"RD_MACCR", 0xFFFFFFFF#32, 0x00008050#32⟩,
   ⟨"WR_MACCR", 0xFFFFFFFF#32, 0x0000A050#32⟩,
   ⟨"RD_PHYCR", 0xFFFFFFFF#32, 0x00008060#32⟩,
   ⟨"WR_PHYCR", 0xFFFFFFFF#32, 0x0000A060#32⟩] ++
  [⟨"RD_PHYDATA", 0xFFFFFFFF#32, 0x00008064#32⟩,
   ⟨"WR_PHYDATA", 0xFFFFFFFF#32, 0x0000A064#32⟩,
   ⟨"HOST_DELIVER", 0xFFFFFFFF#32, 0x80000000#32⟩,
   ⟨"HOST_LINK", 0xFFFFFFFF#32, 0x80000001#32⟩,
   ⟨"HOST_RESET", 0xFFFFFFFF#32, 0x80000002#32⟩,
   ⟨"HOST_CAN_RECEIVE", 0xFFFFFFFF#32, 0x80000003#32⟩]

/-- The rows of priority 1: the invalid accesses (R111). -/
def invalidRows : List OpcodeRow :=
  [⟨"BAD_ACCESS_RD_B", 0xFFFFE000#32, 0x00000000#32⟩,
   ⟨"BAD_ACCESS_RD_H", 0xFFFFE000#32, 0x00004000#32⟩,
   ⟨"BAD_ACCESS_RD_D", 0xFFFFE000#32, 0x0000C000#32⟩,
   ⟨"BAD_ACCESS_RD_MIS1", 0xFFFFE003#32, 0x00008001#32⟩,
   ⟨"BAD_ACCESS_RD_MIS2", 0xFFFFE003#32, 0x00008002#32⟩,
   ⟨"BAD_ACCESS_RD_MIS3", 0xFFFFE003#32, 0x00008003#32⟩,
   ⟨"BAD_ACCESS_WR_B", 0xFFFFE000#32, 0x00002000#32⟩,
   ⟨"BAD_ACCESS_WR_H", 0xFFFFE000#32, 0x00006000#32⟩,
   ⟨"BAD_ACCESS_WR_D", 0xFFFFE000#32, 0x0000E000#32⟩,
   ⟨"BAD_ACCESS_WR_MIS1", 0xFFFFE003#32, 0x0000A001#32⟩,
   ⟨"BAD_ACCESS_WR_MIS2", 0xFFFFE003#32, 0x0000A002#32⟩,
   ⟨"BAD_ACCESS_WR_MIS3", 0xFFFFE003#32, 0x0000A003#32⟩]

/-- The rows of priority 2: the unmapped accesses (R112, R113). -/
def unmappedRows : List OpcodeRow :=
  [⟨"RD_UNMAPPED", 0xFFFFE003#32, 0x00008000#32⟩,
   ⟨"WR_UNMAPPED", 0xFFFFE003#32, 0x0000A000#32⟩]

/-- The opcode table in the order a decoder tries it (R84). -/
def opcodeTable : List OpcodeRow := exactRows ++ invalidRows ++ unmappedRows

/-- The row a word selects: the first, in priority order, whose mask and pattern it matches (R84). -/
def tableRow (w : Word) : Option OpcodeRow := opcodeTable.find? (fun row => w &&& row.mask == row.pattern)

/-- The mnemonic of an operation, as the opcode table spells it. -/
def Instr.mnemonic : Instr → String
  | .rdIsr => "RD_ISR"
  | .wrIsr _ => "WR_ISR"
  | .rdIer => "RD_IER"
  | .wrIer _ => "WR_IER"
  | .rdMadr => "RD_MADR"
  | .wrMadr _ => "WR_MADR"
  | .rdLadr => "RD_LADR"
  | .wrLadr _ => "WR_LADR"
  | .rdNptxpd => "RD_NPTXPD"
  | .wrNptxpd _ => "WR_NPTXPD"
  | .rdRxpd => "RD_RXPD"
  | .wrRxpd _ => "WR_RXPD"
  | .rdNptxrBadr => "RD_NPTXR_BADR"
  | .wrNptxrBadr _ => "WR_NPTXR_BADR"
  | .rdRxrBadr => "RD_RXR_BADR"
  | .wrRxrBadr _ => "WR_RXR_BADR"
  | .rdAptc => "RD_APTC"
  | .wrAptc _ => "WR_APTC"
  | .rdRbsr => "RD_RBSR"
  | .wrRbsr _ => "WR_RBSR"
  | .rdMaccr => "RD_MACCR"
  | .wrMaccr _ => "WR_MACCR"
  | .rdPhycr => "RD_PHYCR"
  | .wrPhycr _ => "WR_PHYCR"
  | .rdPhydata => "RD_PHYDATA"
  | .wrPhydata _ => "WR_PHYDATA"
  | .hostDeliver _ => "HOST_DELIVER"
  | .hostLink _ => "HOST_LINK"
  | .hostReset => "HOST_RESET"
  | .hostCanReceive => "HOST_CAN_RECEIVE"
  | .badAccessRdB _ => "BAD_ACCESS_RD_B"
  | .badAccessRdH _ => "BAD_ACCESS_RD_H"
  | .badAccessRdD _ => "BAD_ACCESS_RD_D"
  | .badAccessRdMis1 _ => "BAD_ACCESS_RD_MIS1"
  | .badAccessRdMis2 _ => "BAD_ACCESS_RD_MIS2"
  | .badAccessRdMis3 _ => "BAD_ACCESS_RD_MIS3"
  | .badAccessWrB _ _ => "BAD_ACCESS_WR_B"
  | .badAccessWrH _ _ => "BAD_ACCESS_WR_H"
  | .badAccessWrD _ _ => "BAD_ACCESS_WR_D"
  | .badAccessWrMis1 _ _ => "BAD_ACCESS_WR_MIS1"
  | .badAccessWrMis2 _ _ => "BAD_ACCESS_WR_MIS2"
  | .badAccessWrMis3 _ _ => "BAD_ACCESS_WR_MIS3"
  | .rdUnmapped _ => "RD_UNMAPPED"
  | .wrUnmapped _ _ => "WR_UNMAPPED"

end Sys2Proof
end

