-- ==== Sys2Proof/Machine/ResetValues.lean ====
section
/-! DEFINITION. The values a reset gives (R38, R163), each said once: the state after power-on and the reset procedures
use them. -/

namespace Sys2Proof.Machine

/-- R.RBSR after reset (R38). -/
def rbsrReset : BitVec 14 := 0x640#14

/-- R.APTC after reset (R38). -/
def aptcReset : Word := 0x00000001#32

/-- phyControl after a PHY reset (R163): auto-negotiation enable, 100 Mb/s. -/
def phyControlReset : Half := 0x3000#16

/-- phyStatus before the link state is derived (R163). -/
def phyStatusReset : Half := 0x7809#16

/-- phyAdvertise after a PHY reset (R163). -/
def phyAdvertiseReset : Half := 0x01E1#16

/-- BMSR link status (bit 2) and auto-negotiation complete (bit 5), the bits that follow the link (R162). -/
def bmsrLinkBits : Half := 0x0024#16

/-- ENERGYON (bit 7) and AUTONEG_COMPLETE (bit 6) of the PHY interrupt source (R80, R162). -/
def phyIntUpBits : Byte := 0xC0#8

/-- LINK_DOWN (bit 4) of the PHY interrupt source (R80, R162). -/
def phyIntDownBits : Byte := 0x10#8

/-- phyStatus re-derived from the link state (R162). -/
def linkedStatus (up : Bool) (st : Half) : Half := if up then st ||| bmsrLinkBits else st &&& ~~~bmsrLinkBits

/-- phyInt with the bits a link event of this state raises (R162). -/
def linkedInt (up : Bool) (src : Byte) : Byte := if up then src ||| phyIntUpBits else src ||| phyIntDownBits

end Sys2Proof.Machine
end

