-- ==== Sys2Proof/Machine/State.lean ====
section
/-! DEFINITION. The state of one device instance (R13, R15), as plain data: the device record, the collaborators' state the
rules read or append (R15), the instance's parameters (R35), and two fields of the model's own (`pending`, `response`).
Also what an operation answers, the reasons a step stops, and the state after power-on (R39). -/

namespace Sys2Proof.Machine

/-- Guest memory M (R40): a list of (address, byte) pairs in the canonical form `Memory.wf`. -/
abbrev Memory := List Host.Cell

/-- The kinds of model fault with what each records (R177). -/
inductive FaultKind where
  /-- F_RING_BASE_MISALIGNED: a ring base write with value[3:0] not 0 (R98, R100); the register offset and the value. -/
  | ringBaseMisaligned (off : Offset) (value : Word)
  /-- F_ADDR_WRAP: a DMA range or a cursor step past the top of the address space (R48); the address and length. -/
  | addrWrap (addr : Nat) (len : Nat)
deriving DecidableEq, Repr

/-- The diagnostic codes (R176). -/
inductive Diag where
  | badAccess
  | unmapped
  | txTooBig
  | rxTooBig
  | rxNoBuffer
  | rxNotEnabled
  | phyBadReg
deriving DecidableEq, Repr

/-- What an operation returns to the agent that started it (R60): a read returns a value of its size, CAN_RECEIVE a
Bool, every other operation nothing (log 4). -/
inductive Response where
  | nothing
  | rd8 (v : Byte)
  | rd16 (v : Half)
  | rd32 (v : Word)
  | rd64 (v : DWord)
  | canReceive (enabled : Bool)
deriving DecidableEq, Repr

/-- What the agents around the device do, one entry each (R10, R44): present an operation, or (the guest CPU) store
bytes to memory between operations, which is no device operation (R82). -/
inductive Input where
  | op (r : Request)
  | guestStore (addr : Word) (bytes : List Byte)
deriving DecidableEq, Repr

/-- The state record. Fields down to `phyIntMask` are the device's (R15); `linkUp`, `txOut`, `diagTrace` and `mem` are
the collaborators' (R15); `irqChanges` is the list of levels driven (R12, R34). -/
structure State where
  cfg          : Params
  isr          : Word
  ier          : Word
  mac          : MacAddr
  rxBase       : Word
  txBase       : Word
  rbsr         : BitVec 14
  aptc         : Word
  maccr        : Word
  phycr        : Word
  phydata      : Word
  txCur        : Word
  rxCur        : Word
  rxEnabled    : Bool
  irqLevel     : Bool
  phyControl   : Half
  phyStatus    : Half
  phyAdvertise : Half
  phyInt       : Byte
  phyIntMask   : Byte
  faulted      : Option FaultKind
  linkUp       : Bool
  txOut        : List (List Byte)
  diagTrace    : List Diag
  irqChanges   : List Bool
  mem          : Memory
  pending      : List Input
  response     : Response
deriving DecidableEq, Repr

/-- Why the machine stops. -/
inductive Fault where
  /-- Raised by every operation on a faulted device: "once faulted, no operation has a step" (R34, R177, U12). Safe. -/
  | stuck (kind : FaultKind)
  /-- Raised by a transmit or receive walk that would never end. It needs a BUS that answers an owned descriptor from an
  address with no memory, where R125's argument that each visit clears an OWN bit does not hold (log 11). Safe. -/
  | walkNeverEnds
deriving DecidableEq, Repr

/-- Why an operation has no meaning. -/
inductive Refusal where
  /-- An arm of exec with no meaning yet. Safe. -/
  | notModelled (mnemonic : String)
  /-- Raised by step: the presented word is no operation (R81, U9: refuse). Safe. -/
  | noSuchOperation (why : DecodeError)
deriving DecidableEq, Repr

/-- The state of an instance with parameters `p` at power-on (R38, R39, R194). Guest memory lists nothing (log 8). -/
def State.powerOn (p : Params) : State where
  cfg          := p
  isr          := 0#32
  ier          := 0#32
  mac          := p.macAddrInit
  rxBase       := 0#32
  txBase       := 0#32
  rbsr         := rbsrReset
  aptc         := aptcReset
  maccr        := 0#32
  phycr        := 0#32
  phydata      := 0#32
  txCur        := 0#32
  rxCur        := 0#32
  rxEnabled    := false
  irqLevel     := false
  phyControl   := phyControlReset
  phyStatus    := linkedStatus p.linkInit phyStatusReset
  phyAdvertise := phyAdvertiseReset
  phyInt       := linkedInt p.linkInit 0x00#8
  phyIntMask   := 0x00#8
  faulted      := none
  linkUp       := p.linkInit
  txOut        := []
  diagTrace    := []
  irqChanges   := []
  mem          := []
  pending      := []
  response     := .nothing

/-- The machine right after reset: power-on of the instance whose parameters are OPEN (R39, log 5). -/
def State.reset : State := State.powerOn Config.params

end Sys2Proof.Machine
end

