-- ==== Sys2Proof/Machine/Flags.lean ====
section
/-! DEFINITION. The flags of the device, the cause bits of R.ISR (R36, R65, R173): setting one, the interrupt line that
follows them (R172), and the one bit the PHY drives (R168). -/

namespace Sys2Proof.Machine

/-- "receive-buffer interrupt" (R65 bit 0). -/
def causeRpktBuf : Word := 0x00000001#32
/-- "receive-FIFO interrupt" (R65 bit 1). -/
def causeRpktFifo : Word := 0x00000002#32
/-- "no RX buffer" (R65 bit 2). -/
def causeNoRxbuf : Word := 0x00000004#32
/-- "transmit complete" (R65 bit 4). -/
def causeXpktEth : Word := 0x00000010#32
/-- FIFO-completion (R65 bit 5). -/
def causeXpktFifo : Word := 0x00000020#32
/-- "no transmit buffer" (R65 bit 6). -/
def causeNoNptxbuf : Word := 0x00000040#32
/-- PHY interrupt (R65 bit 9). -/
def causePhystsChg : Word := 0x00000200#32

/-- Every cause bit the device ever sets (R18); every other bit of R.ISR is always 0. -/
def causeMask : Word := 0x00000277#32

/-- `cause(b)`: set cause bits; the line does not move (R171). -/
def cause (b : Word) (s : State) : State := { s with isr := s.isr ||| b }

/-- The level the interrupt line has when it is driven: some enabled cause is pending (R172). -/
def lineActive (s : State) : Bool := (s.isr &&& s.ier) != 0#32

/-- `irq_update()`: drive the line when its level changes, and record the change (R172). -/
def irqUpdate (s : State) : State :=
  { s with
    irqLevel := lineActive s
    irqChanges := if lineActive s = s.irqLevel then s.irqChanges else s.irqChanges ++ [lineActive s] }

/-- Some PHY interrupt source is pending and unmasked (R168, R186). -/
def phyPending (s : State) : Bool := (s.phyInt &&& s.phyIntMask) != 0#8

/-- `phy_irq_eval()`: PHYSTS_CHG becomes a copy of the masked PHY source, set or cleared (R168). -/
def phyIrqEval (s : State) : State :=
  { s with isr := if phyPending s then s.isr ||| causePhystsChg else s.isr &&& ~~~causePhystsChg }

end Sys2Proof.Machine
end

