-- ==== Sys2Proof/Machine/Operands.lean ====
section
/-! DEFINITION. The fields of the registers and descriptors (R65-R80), the byte order of a word (R45, R46), the maximum
frame size (R5), and the CRC trailer (R4, R9). -/

namespace Sys2Proof.Machine

/-! ### Words and bytes -/

/-- A word from its four bytes in memory order, least significant first (R45). -/
def wordOfBytes (b0 b1 b2 b3 : Byte) : Word := b3 ++ b2 ++ b1 ++ b0

/-- The four bytes of a word in memory order, least significant first (R46). -/
def bytesOfWord (w : Word) : List Byte :=
  [w.extractLsb' 0 8, w.extractLsb' 8 8, w.extractLsb' 16 8, w.extractLsb' 24 8]

/-! ### Registers -/

/-- R.MADR as read: `zext_32(mac[0] << 8 | mac[1])` (R20, R67). -/
def madrValue (m : MacAddr) : Word := 0#16 ++ m.b0 ++ m.b1

/-- R.LADR as read: mac[2] to mac[5], the first in the top byte (R20, R67). -/
def ladrValue (m : MacAddr) : Word := m.b2 ++ m.b3 ++ m.b4 ++ m.b5

/-- The MAC address after a MADR write; value[31:16] is discarded (R90). -/
def withMadr (v : Word) (m : MacAddr) : MacAddr := { m with b0 := v.extractLsb' 8 8, b1 := v.extractLsb' 0 8 }

/-- The MAC address after a LADR write (R92). -/
def withLadr (v : Word) (m : MacAddr) : MacAddr :=
  { m with b2 := v.extractLsb' 24 8, b3 := v.extractLsb' 16 8, b4 := v.extractLsb' 8 8, b5 := v.extractLsb' 0 8 }

/-- R.RBSR as read: the 14 stored bits, zero-extended (R68, R103). -/
def rbsrValue (r : BitVec 14) : Word := r.setWidth 32

/-- The bits of R.RBSR a write stores (R68, R104). -/
def rbsrField (v : Word) : BitVec 14 := v.extractLsb' 0 14

/-- MACCR TXDMA_EN (R66). -/
def txdmaEn (maccr : Word) : Bool := maccr.getLsbD 0
/-- MACCR RXDMA_EN (R66). -/
def rxdmaEn (maccr : Word) : Bool := maccr.getLsbD 1
/-- MACCR JUMBO_LF (R66). -/
def jumboLf (maccr : Word) : Bool := maccr.getLsbD 13
/-- MACCR SW_RST (R66). -/
def swRst (maccr : Word) : Bool := maccr.getLsbD 31

/-- MAXF, the maximum frame size in force (R5). -/
def maxFrame (s : State) : Nat := if jumboLf s.maccr then 9220 else 1522

/-- The low four bits of a ring base: they must be 0 (R72). -/
def baseLow (v : Word) : BitVec 4 := v.extractLsb' 0 4

/-- PHYCR REGAD, the index of the MDIO access (R69). -/
def phycrReg (v : Word) : BitVec 5 := v.extractLsb' 21 5
/-- PHYCR MIIWR, the write request (R69). -/
def phycrWrite (v : Word) : Bool := v.getLsbD 27
/-- The bit MIIRD (R69). -/
def miirdBit : Word := 0x04000000#32
/-- The bit MIIWR (R69). -/
def miiwrBit : Word := 0x08000000#32

/-- PHYDATA MIIWDATA, the data an MDIO write sends (R70). -/
def phydataWrite (v : Word) : Half := v.extractLsb' 0 16
/-- PHYDATA after a guest write: bits [15:0] only (R70, R110). -/
def phydataStored (v : Word) : Word := (v.extractLsb' 0 16).setWidth 32
/-- PHYDATA after an MDIO read of `v`: `zext_32(v) << 16` (R70, R151). -/
def phydataRead (v : Half) : Word := v.setWidth 32 <<< 16

/-- The BMCR bits a write stores (R80, R164). -/
def bmcrMask : Half := 0x7980#16
/-- BMSR auto-negotiation complete (R80, R164). -/
def bmsrAutoneg : Half := 0x0020#16
/-- The ANAR bits a write stores (R80, R165). -/
def anarMask : Half := 0x2D7F#16
/-- The ANAR bit that is always set (R80, R165). -/
def anarAlways : Half := 0x0080#16

/-! ### Descriptors -/

/-- One descriptor: four 32-bit words (R14, R45). -/
structure Desc where
  w0 : Word
  w1 : Word
  w2 : Word
  w3 : Word
deriving DecidableEq, Repr

/-- The size of a descriptor in bytes (R4). -/
def descSize : Nat := 16

/-- The descriptor that sixteen bytes hold (R45). -/
def descOfBytes (b : List Byte) : Desc :=
  let w (i : Nat) : Word := wordOfBytes (b.getD (4 * i) 0) (b.getD (4 * i + 1) 0) (b.getD (4 * i + 2) 0) (b.getD (4 * i + 3) 0)
  { w0 := w 0, w1 := w 1, w2 := w 2, w3 := w 3 }

/-- The sixteen bytes of a descriptor, words 0 to 3 in order (R46). -/
def bytesOfDesc (d : Desc) : List Byte := bytesOfWord d.w0 ++ bytesOfWord d.w1 ++ bytesOfWord d.w2 ++ bytesOfWord d.w3

/-- The end-of-ring bit of a variant, for both rings of the instance (R78). -/
def eorMask : Variant → Word
  | .faraday => 0x00008000#32
  | .aspeed  => 0x40000000#32

/-- The descriptor carries the instance's end-of-ring bit (R47, R78). -/
def Desc.eor (v : Variant) (d : Desc) : Bool := (d.w0 &&& eorMask v) != 0#32

/-- TXDMA_OWN and RX_OWN: the device may use the descriptor (R73, R76, R131). -/
def Desc.own (d : Desc) : Bool := d.w0.getLsbD 31
/-- FTS, first segment of a TX frame (R73). -/
def Desc.fts (d : Desc) : Bool := d.w0.getLsbD 29
/-- LTS, last segment of a TX frame (R73). -/
def Desc.lts (d : Desc) : Bool := d.w0.getLsbD 28
/-- TXBUF_SIZE, `length & 0x3FFF` (R73). -/
def Desc.txSize (d : Desc) : Nat := (d.w0.extractLsb' 0 14).toNat
/-- TXIC: request XPKT_ETH (R74). -/
def Desc.txic (d : Desc) : Bool := d.w1.getLsbD 31
/-- TX2FIC: request XPKT_FIFO (R74). -/
def Desc.tx2fic (d : Desc) : Bool := d.w1.getLsbD 30
/-- The buffer address, word 3 (R75, R77). -/
def Desc.buffer (d : Desc) : Nat := d.w3.toNat

/-- The ownership bit, word 0 bit 31 (R73, R76). -/
def ownBit : Word := 0x80000000#32

/-- A TX descriptor handed back to software: TXDMA_OWN cleared, nothing else (R122). -/
def Desc.handBack (d : Desc) : Desc := { d with w0 := d.w0 &&& ~~~ownBit }

/-- Word 0 bits an RX write-back preserves: both end-of-ring positions (R76, R141). -/
def rxKeepMask : Word := 0x40008000#32
/-- FRS, first segment of an RX frame (R76). -/
def rxFrs : Word := 0x20000000#32
/-- LRS, last segment of an RX frame (R76). -/
def rxLrs : Word := 0x10000000#32
/-- BROADCAST (R76). -/
def rxBroadcast : Word := 0x00020000#32
/-- FTL, frame too long (R76). -/
def rxFtl : Word := 0x00100000#32

/-- A word, or nothing. -/
def bitsIf (c : Bool) (w : Word) : Word := if c then w else 0#32

/-- An RX descriptor's write-back: its length and flags, ownership to software, the ring shape kept (R141). -/
def Desc.rxDone (d : Desc) (n : Nat) (first final bc ftl : Bool) : Desc :=
  { d with
    w0 := (d.w0 &&& rxKeepMask) ||| BitVec.ofNat 32 n ||| bitsIf first rxFrs
      ||| bitsIf final (rxLrs ||| bitsIf bc rxBroadcast ||| bitsIf ftl rxFtl) }

/-! ### The CRC trailer and the received stream -/

/-- One bit of the reflected CRC-32 (R9: polynomial 0xEDB88320). -/
def crcBit (c : Word) : Word := if c.getLsbD 0 then (c >>> 1) ^^^ 0xEDB88320#32 else c >>> 1

/-- One byte of the reflected CRC-32 (R9). -/
def crcByte (c : Word) (b : Byte) : Word :=
  crcBit (crcBit (crcBit (crcBit (crcBit (crcBit (crcBit (crcBit (c ^^^ b.setWidth 32))))))))

/-- FCS_IEEE as a word: initial register 0xFFFFFFFF, final complement (R9). -/
def fcsIeee (frame : List Byte) : Word := ~~~(frame.foldl crcByte 0xFFFFFFFF#32)

/-- The CRC word of an instance's FCS (R4, R9). -/
def fcsWord : FcsChoice → List Byte → Word
  | .ieee, frame => fcsIeee frame
  | .platform k, frame => Config.fcsWord k frame

/-- The 4-byte CRC trailer of a frame (R9, R135). -/
def trailer (c : FcsChoice) (frame : List Byte) : List Byte := bytesOfWord (fcsWord c frame)

/-- The frame and its trailer are longer than the maximum (R135). -/
def rxTooLong (s : State) (frame : List Byte) : Bool := decide (maxFrame s < frame.length + 4)

/-- The bytes a delivery stores: the frame, cut so that the trailer of the whole frame still fits in MAXF (R135). -/
def rxStream (s : State) (frame : List Byte) : List Byte :=
  (if rxTooLong s frame then frame.take (maxFrame s - 4) else frame) ++ trailer s.cfg.fcs frame

/-- The destination address is the all-ones address; a frame under 6 bytes has none (R136). -/
def isBroadcast (frame : List Byte) : Bool := frame.take 6 == List.replicate 6 0xFF#8

end Sys2Proof.Machine
end

