-- ==== Sys2Proof/Machine/Ops.lean ====
section
/-! DEFINITION. The shared operations over memory and state: guest memory and the bus (R40-R43), the range check (R48), the
descriptor codec (R45, R46), the ring cursor (R47), diagnostics (R176), raising a model fault (R177, the device's only
"exception"), and the frame of one operation (R44, R114, R172). There is no return beside the raise: a fault is never
cleared (R34), and the device has no trap entry and no return (R178, R179). -/

namespace Sys2Proof.Machine

/-! ### Guest memory -/

/-- The number of addresses: 2^32 (R40). -/
def addrSpace : Nat := 0x100000000

/-- What an address no one has written reads as (log 8). -/
def unlistedByte : Byte := 0x00#8

/-- The byte at an address. -/
def Memory.read : Memory → Nat → Byte
  | [], _ => unlistedByte
  | (k, v) :: t, a => if k = a then v else Memory.read t a

/-- Write one byte, keeping the canonical form. -/
def Memory.write : Memory → Nat → Byte → Memory
  | [], a, b => if b = unlistedByte then [] else [(a, b)]
  | (k, v) :: t, a, b =>
    if a < k then (if b = unlistedByte then (k, v) :: t else (a, b) :: (k, v) :: t)
    else if a = k then (if b = unlistedByte then t else (a, b) :: t)
    else (k, v) :: Memory.write t a b

/-- Canonical from `lo` up: addresses rise, lie in the address space, and no byte is the unlisted one. -/
def Memory.wfFrom : Nat → Memory → Bool
  | _, [] => true
  | lo, (k, v) :: t => decide (lo ≤ k) && decide (k < addrSpace) && v != unlistedByte && Memory.wfFrom (k + 1) t

/-- The canonical form of guest memory. -/
def Memory.wf (m : Memory) : Bool := Memory.wfFrom 0 m

/-! ### The bus -/

/-- The region holds the address. -/
def regionHas (r : Region) (a : Nat) : Bool := decide (r.base.toNat ≤ a) && decide (a < r.base.toNat + r.size)

/-- The bus has memory at the address: inside the address space and in no hole (R40, D38). -/
def hasMemory (b : Bus) (a : Nat) : Bool := decide (a < addrSpace) && !b.holes.any (fun r => regionHas r a)

/-- What a read of an address with no memory answers (R40). -/
def fillByte : BusFill → Nat → Byte
  | .zero, _ => 0x00#8
  | .platform k, a => Config.busByte k a

/-- One byte as the bus reads it: from memory, or from BUS where there is none (R41). -/
def busRead (s : State) (a : Nat) : Byte :=
  if hasMemory s.cfg.bus a then Memory.read s.mem a else fillByte s.cfg.bus.fill a

/-- The bytes at `a`, `a + 1`, … (R41). -/
def busReadBytes (s : State) : Nat → Nat → List Byte
  | _, 0 => []
  | a, n + 1 => busRead s a :: busReadBytes s (a + 1) n

/-- Write one byte where the bus has memory; elsewhere the write is dropped (R42). -/
def busWriteByte (b : Bus) (m : Memory) (a : Nat) (v : Byte) : Memory :=
  if hasMemory b a then Memory.write m a v else m

/-- Write bytes at `a`, `a + 1`, … in increasing order (R42). -/
def busWriteBytes (b : Bus) : Memory → Nat → List Byte → Memory
  | m, _, [] => m
  | m, a, v :: vs => busWriteBytes b (busWriteByte b m a v) (a + 1) vs

/-- A guest CPU store between operations (R40, R82, log 3). -/
def guestStore (addr : Word) (bytes : List Byte) (s : State) : State :=
  { s with mem := busWriteBytes s.cfg.bus s.mem addr.toNat bytes }

/-! ### Sequencing and faults -/

/-- How a part of an operation ends: it goes on with a value, it raised a model fault (the changes made so far stay,
R177), or it is a walk that never ends (log 11). -/
inductive Flow (α : Type) where
  | go (a : α) (s : State)
  | raised (s : State)
  | endless

/-- Statements run in order; after a raise, later ones are not made (R7, R177). -/
def Flow.bind {α β : Type} (x : Flow α) (f : α → State → Flow β) : Flow β :=
  match x with
  | .go a s => f a s
  | .raised s => .raised s
  | .endless => .endless

/-- `raise Fault(kind)`: set faulted, keep every change already made (R177). -/
def raise {α : Type} (k : FaultKind) (s : State) : Flow α := .raised { s with faulted := some k }

/-- `diag(code)` (R176). -/
def diag (c : Diag) (s : State) : State := { s with diagTrace := s.diagTrace ++ [c] }

/-- `send(frame)`: append to the transport's output (R11). -/
def send (frame : List Byte) (s : State) : State := { s with txOut := s.txOut ++ [frame] }

/-! ### DMA -/

/-- `MemRead(a, n)` (R41) with the range check of R48. -/
def memRead (a n : Nat) (s : State) : Flow (List Byte) :=
  if n = 0 then .go [] s
  else if addrSpace < a + n then raise (.addrWrap a n) s
  else .go (busReadBytes s a n) s

/-- `MemWrite(a, len(bytes), bytes)` (R42) with the range check of R48. -/
def memWrite (a : Nat) (bytes : List Byte) (s : State) : Flow Unit :=
  if bytes.length = 0 then .go () s
  else if addrSpace < a + bytes.length then raise (.addrWrap a bytes.length) s
  else .go () { s with mem := busWriteBytes s.cfg.bus s.mem a bytes }

/-- `ReadDesc(a)` (R45). -/
def readDesc (a : Word) (s : State) : Flow Desc :=
  (memRead a.toNat descSize s).bind fun b s => .go (descOfBytes b) s

/-- `WriteDesc(a, d)` (R46). -/
def writeDesc (a : Word) (d : Desc) (s : State) : Flow Unit := memWrite a.toNat (bytesOfDesc d) s

/-- The step `cur + 16` of a cursor or a scan, which never wraps (R48; what it records: log 10). -/
def stepUp (cur : Word) (s : State) : Flow Word :=
  if addrSpace ≤ cur.toNat + descSize then raise (.addrWrap (cur.toNat + descSize) descSize) s
  else .go (cur + 16#32) s

/-- The ring cursor rule: back to the base after an end-of-ring descriptor, else to the next one (R47). -/
def advance (cur : Word) (d : Desc) (base : Word) (s : State) : Flow Word :=
  if d.eor s.cfg.variant then .go base s else stepUp cur s

/-- More steps than a scan upward can take: there are 2^28 descriptor places (R125, R146). -/
def scanFuel : Nat := 0x10000001

/-- More visits than a walk that clears an OWN bit at each can make: one for each address (R125, R146, log 11). -/
def walkFuel : Nat := 0x100000001

/-! ### One operation -/

/-- How an operation ends: a completed one runs irq_update and returns its response (R114, R172); one that raised a model
fault keeps the changes made so far and runs no irq_update (R177, log 9). -/
def finish : Flow Response → Host.Outcome State Fault Refusal
  | .go r t => .next { irqUpdate t with response := r }
  | .raised t => .next { t with response := .nothing }
  | .endless => .fault .walkNeverEnds

/-- One operation as an atomic step (R44): a faulted device has none (R34, R177). -/
def perform (body : State → Flow Response) (s : State) : Host.Outcome State Fault Refusal :=
  match s.faulted with
  | some k => .fault (.stuck k)
  | none => finish (body s)

/-- A valid 4-byte read: return the value, change nothing (R51, R114). -/
def busReadOp (value : State → Word) (s : State) : Host.Outcome State Fault Refusal :=
  perform (fun s => .go (.rd32 (value s)) s) s

/-- A write that ends in a state and raises nothing (R114). -/
def busWriteOp (effect : State → State) (s : State) : Host.Outcome State Fault Refusal :=
  perform (fun s => .go .nothing (effect s)) s

end Sys2Proof.Machine
end

