-- ==== Sys2Proof/Machine/Phy.lean ====
section
/-! DEFINITION. The PHY and its MDIO access (R150-R168), and the operations that reach them: PHYCR, PHYDATA (R107-R110) and
LINK (R161). -/

namespace Sys2Proof.Machine

/-- `phy_update_link()`: re-derive the link state and raise its interrupt sources (R162). -/
def phyUpdateLink (s : State) : State :=
  phyIrqEval { s with phyStatus := linkedStatus s.linkUp s.phyStatus, phyInt := linkedInt s.linkUp s.phyInt }

/-- `phy_reset()` (R163). -/
def phyReset (s : State) : State :=
  phyUpdateLink { s with
    phyControl := phyControlReset
    phyStatus := phyStatusReset
    phyAdvertise := phyAdvertiseReset
    phyIntMask := 0x00#8
    phyInt := 0x00#8 }

/-- An MDIO read of INT_SOURCE clears it and re-evaluates the PHY interrupt (R158). -/
def phyClearInt (s : State) : State := phyIrqEval { s with phyInt := 0x00#8 }

/-- The index is one of the PHY's seven registers (R79). -/
def phyRegExists (reg : BitVec 5) : Bool :=
  reg == 0#5 || reg == 1#5 || reg == 2#5 || reg == 3#5 || reg == 4#5 || reg == 29#5 || reg == 30#5

/-- The value an MDIO read returns (R153-R160). -/
def phyReadValue (reg : BitVec 5) (s : State) : Half :=
  if reg = 0#5 then s.phyControl
  else if reg = 1#5 then s.phyStatus
  else if reg = 2#5 then s.cfg.phyId1
  else if reg = 3#5 then s.cfg.phyId2
  else if reg = 4#5 then s.phyAdvertise
  else if reg = 29#5 then s.phyInt.setWidth 16
  else if reg = 30#5 then s.phyIntMask.setWidth 16
  else 0#16

/-- What an MDIO read does beside returning its value: it clears INT_SOURCE (R158) and logs an index the PHY lacks
(R160). -/
def phyReadEffect (reg : BitVec 5) (s : State) : State :=
  if reg = 29#5 then phyClearInt s
  else if phyRegExists reg then s
  else diag .phyBadReg s

/-- PHY_WR_BMCR (R164). -/
def phyWriteBmcr (v : Half) (s : State) : State :=
  if v.getLsbD 15 then phyReset s
  else { s with
    phyControl := v &&& bmcrMask
    phyStatus := if v.getLsbD 12 then s.phyStatus ||| bmsrAutoneg else s.phyStatus }

/-- PHY_WR_ANAR (R165). -/
def phyWriteAnar (v : Half) (s : State) : State := { s with phyAdvertise := (v &&& anarMask) ||| anarAlways }

/-- PHY_WR_INT_MASK (R166). -/
def phyWriteIntMask (v : Half) (s : State) : State := phyIrqEval { s with phyIntMask := v.extractLsb' 0 8 }

/-- `phy_write(reg, v16)`: the read-only registers ignore a write, an index the PHY lacks is logged (R152, R167). -/
def phyWrite (reg : BitVec 5) (v : Half) (s : State) : State :=
  if reg = 0#5 then phyWriteBmcr v s
  else if reg = 4#5 then phyWriteAnar v s
  else if reg = 30#5 then phyWriteIntMask v s
  else if phyRegExists reg then s
  else diag .phyBadReg s

/-- MDIO_ACCESS: MIIWR selects a write, anything else is a read; the flag that asked is cleared (R151). -/
def mdioAccess (v : Word) (s : State) : State :=
  if phycrWrite v then
    let s := phyWrite (phycrReg v) (phydataWrite s.phydata) s
    { s with phycr := s.phycr &&& ~~~miiwrBit }
  else
    let x := phyReadValue (phycrReg v) s
    let s := phyReadEffect (phycrReg v) s
    { s with phydata := phydataRead x, phycr := s.phycr &&& ~~~miirdBit }

/-- RD_PHYCR (R107). -/
def execRdPhycr (s : State) : Host.Outcome State Fault Refusal := busReadOp (fun s => s.phycr) s

/-- WR_PHYCR: store, then one MDIO access (R108). -/
def execWrPhycr (value : Word) (s : State) : Host.Outcome State Fault Refusal :=
  busWriteOp (fun s => mdioAccess value { s with phycr := value }) s

/-- RD_PHYDATA (R109). -/
def execRdPhydata (s : State) : Host.Outcome State Fault Refusal := busReadOp (fun s => s.phydata) s

/-- WR_PHYDATA: bits [15:0] only (R110). -/
def execWrPhydata (value : Word) (s : State) : Host.Outcome State Fault Refusal :=
  busWriteOp (fun s => { s with phydata := phydataStored value }) s

/-- HOST_LINK, `link_state_changed(up)` (R161). -/
def execHostLink (up : Bool) (s : State) : Host.Outcome State Fault Refusal :=
  busWriteOp (fun s => phyUpdateLink { s with linkUp := up }) s

end Sys2Proof.Machine
end

