-- ==== Sys2Proof/Machine/RxEngine.lean ====
section
/-! DEFINITION. The receive engine (R130-R147): the enable scan, a frame delivery, the query of the RX-enabled flag, and the
RX poll-demand operations (R95, R96). -/

namespace Sys2Proof.Machine

/-- The scan upward for the first free descriptor, ending at an end-of-ring descriptor (R133). -/
def scanFree : Nat → Word → State → Flow Bool
  | 0, _, _ => .endless
  | fuel + 1, c, s =>
    (readDesc c s).bind fun d s =>
      if d.own then .go true s
      else if d.eor s.cfg.variant then .go false s
      else (stepUp c s).bind fun c' s => scanFree fuel c' s

/-- ENABLE_SCAN: record whether a free descriptor lies ahead; rxCur does not move (R133). -/
def enableScan (s : State) : Flow Unit :=
  (scanFree scanFuel s.rxCur s).bind fun found s => .go () { s with rxEnabled := found }

/-- How many bytes of the remaining stream one descriptor receives (R139). -/
def rxChunk (s : State) (rest : List Byte) : Nat := min rest.length s.rbsr.toNat

/-- One free descriptor is filled: buffer, write-back, cause bit, cursor (R138-R142, R144). `rest` is the stream from
`pos` on; it answers what remains. -/
def rxVisit (first bc ftl : Bool) (rest : List Byte) (d : Desc) (s : State) : Flow (List Byte) :=
  let n := rxChunk s rest
  let left := rest.drop n
  let final := left.isEmpty
  let d' := d.rxDone n first final bc ftl
  (memWrite d.buffer (rest.take n) s).bind fun _ s =>
  (writeDesc s.rxCur d' s).bind fun _ s =>
  let s := cause (if final then causeRpktBuf else causeRpktFifo) s
  (advance s.rxCur d' s.rxBase s).bind fun cur s => .go left { s with rxCur := cur }

/-- The loop of a delivery: fill free descriptors while bytes remain, and drop the rest at one that is not free (R138,
R143). -/
def rxLoop (bc ftl : Bool) : Nat → Bool → List Byte → State → Flow Unit
  | 0, _, _, _ => .endless
  | fuel + 1, first, rest, s =>
    if rest.isEmpty then .go () s
    else
      (readDesc s.rxCur s).bind fun d s =>
        if d.own then (rxVisit first bc ftl rest d s).bind fun left s => rxLoop bc ftl fuel false left s
        else .go () (diag .rxNoBuffer (cause causeNoRxbuf s))

/-- A delivery the device accepts: stream, loop, rescan (R135, R138, R145). -/
def rxAccept (frame : List Byte) (s : State) : Flow Unit :=
  let s' := if rxTooLong s frame then diag .rxTooBig s else s
  (rxLoop (isBroadcast frame) (rxTooLong s frame) walkFuel true (rxStream s frame) s').bind fun _ s => enableScan s

/-- HOST_DELIVER (R138): a delivery while not enabled is dropped with a diagnostic (D25). -/
def execHostDeliver (frame : List Byte) (s : State) : Host.Outcome State Fault Refusal :=
  perform (fun s =>
    if s.rxEnabled then (rxAccept frame s).bind fun _ s => .go .nothing s
    else .go .nothing (diag .rxNotEnabled s)) s

/-- HOST_CAN_RECEIVE: the stored flag (R137; its irq_update, R172: log 13). -/
def execHostCanReceive (s : State) : Host.Outcome State Fault Refusal :=
  perform (fun s => .go (.canReceive s.rxEnabled) s) s

/-- RD_RXPD: reads 0 (R95). -/
def execRdRxpd (s : State) : Host.Outcome State Fault Refusal := busReadOp (fun _ => 0#32) s

/-- WR_RXPD: a software hint, no action (R96). -/
def execWrRxpd (_value : Word) (s : State) : Host.Outcome State Fault Refusal := busWriteOp (fun s => s) s

end Sys2Proof.Machine
end

