-- ==== Sys2Proof/Machine/Control.lean ====
section
/-! DEFINITION. MAC control and reset: the reset procedure (R190-R195), MACCR (R105, R106) and the RESET event. -/

namespace Sys2Proof.Machine

/-- DEVICE_RESET, the procedure of a software and of a device reset (R191, R192). Guest memory, linkUp, txOut, diagTrace,
the record of line changes and the parameters stay (R195). -/
def deviceReset (s : State) : State :=
  irqUpdate (phyReset { s with
    isr := 0#32
    ier := 0#32
    mac := s.cfg.macAddrInit
    txBase := 0#32
    rxBase := 0#32
    txCur := 0#32
    rxCur := 0#32
    rbsr := rbsrReset
    aptc := aptcReset
    maccr := 0#32
    phycr := 0#32
    phydata := 0#32
    rxEnabled := false })

/-- RD_MACCR (R105). -/
def execRdMaccr (s : State) : Host.Outcome State Fault Refusal := busReadOp (fun s => s.maccr) s

/-- What a MACCR write without SW_RST does after the value is stored: the enable scan on RXDMA_EN 0 to 1, and no
reception while it is 0 (R106, R132, R134). `old` is the value before. -/
def maccrEnable (old value : Word) (s : State) : Flow Unit :=
  if rxdmaEn value then (if rxdmaEn old then .go () s else enableScan s)
  else .go () { s with rxEnabled := false }

/-- WR_MACCR: store, then reset or enable (R106). -/
def execWrMaccr (value : Word) (s : State) : Host.Outcome State Fault Refusal :=
  perform (fun s =>
    if swRst value then .go .nothing (deviceReset { s with maccr := value })
    else (maccrEnable s.maccr value { s with maccr := value }).bind fun _ s => .go .nothing s) s

/-- HOST_RESET, device-level reset (R191). -/
def execHostReset (s : State) : Host.Outcome State Fault Refusal := busWriteOp deviceReset s

end Sys2Proof.Machine
end

