-- ==== Sys2Proof/Machine/Invalid.lean ====
section
/-! DEFINITION. Invalid and unmapped accesses (R111-R113): a diagnostic, a read of 0 of the access size, a write with no
effect. -/

namespace Sys2Proof.Machine

/-- An access the device ignores: log it and answer (R111-R113). -/
def ignoredAccess (c : Diag) (r : Response) (s : State) : Host.Outcome State Fault Refusal :=
  perform (fun s => .go r (diag c s)) s

/-- BAD_ACCESS_RD_B: a 1-byte read (R111). -/
def execBadAccessRdB (_off : Offset) (s : State) : Host.Outcome State Fault Refusal :=
  ignoredAccess .badAccess (.rd8 0#8) s

/-- BAD_ACCESS_RD_H: a 2-byte read (R111). -/
def execBadAccessRdH (_off : Offset) (s : State) : Host.Outcome State Fault Refusal :=
  ignoredAccess .badAccess (.rd16 0#16) s

/-- BAD_ACCESS_RD_D: an 8-byte read (R111). -/
def execBadAccessRdD (_off : Offset) (s : State) : Host.Outcome State Fault Refusal :=
  ignoredAccess .badAccess (.rd64 0#64) s

/-- BAD_ACCESS_RD_MIS1: a 4-byte, OFF[1:0] = 1, read (R111). -/
def execBadAccessRdMis1 (_off : Offset) (s : State) : Host.Outcome State Fault Refusal :=
  ignoredAccess .badAccess (.rd32 0#32) s

/-- BAD_ACCESS_RD_MIS2: a 4-byte, OFF[1:0] = 2, read (R111). -/
def execBadAccessRdMis2 (_off : Offset) (s : State) : Host.Outcome State Fault Refusal :=
  ignoredAccess .badAccess (.rd32 0#32) s

/-- BAD_ACCESS_RD_MIS3: a 4-byte, OFF[1:0] = 3, read (R111). -/
def execBadAccessRdMis3 (_off : Offset) (s : State) : Host.Outcome State Fault Refusal :=
  ignoredAccess .badAccess (.rd32 0#32) s

/-- BAD_ACCESS_WR_B: a 1-byte write (R111). -/
def execBadAccessWrB (_off : Offset) (_value : Byte) (s : State) : Host.Outcome State Fault Refusal :=
  ignoredAccess .badAccess .nothing s

/-- BAD_ACCESS_WR_H: a 2-byte write (R111). -/
def execBadAccessWrH (_off : Offset) (_value : Half) (s : State) : Host.Outcome State Fault Refusal :=
  ignoredAccess .badAccess .nothing s

/-- BAD_ACCESS_WR_D: an 8-byte write (R111). -/
def execBadAccessWrD (_off : Offset) (_value : DWord) (s : State) : Host.Outcome State Fault Refusal :=
  ignoredAccess .badAccess .nothing s

/-- BAD_ACCESS_WR_MIS1: a 4-byte, OFF[1:0] = 1, write (R111). -/
def execBadAccessWrMis1 (_off : Offset) (_value : Word) (s : State) : Host.Outcome State Fault Refusal :=
  ignoredAccess .badAccess .nothing s

/-- BAD_ACCESS_WR_MIS2: a 4-byte, OFF[1:0] = 2, write (R111). -/
def execBadAccessWrMis2 (_off : Offset) (_value : Word) (s : State) : Host.Outcome State Fault Refusal :=
  ignoredAccess .badAccess .nothing s

/-- BAD_ACCESS_WR_MIS3: a 4-byte, OFF[1:0] = 3, write (R111). -/
def execBadAccessWrMis3 (_off : Offset) (_value : Word) (s : State) : Host.Outcome State Fault Refusal :=
  ignoredAccess .badAccess .nothing s

/-- RD_UNMAPPED (R112). -/
def execRdUnmapped (_off : Offset) (s : State) : Host.Outcome State Fault Refusal :=
  ignoredAccess .unmapped (.rd32 0#32) s

/-- WR_UNMAPPED (R113). -/
def execWrUnmapped (_off : Offset) (_value : Word) (s : State) : Host.Outcome State Fault Refusal :=
  ignoredAccess .unmapped .nothing s

end Sys2Proof.Machine
end

