-- ==== Sys2Proof/Machine/Registers.lean ====
section
/-! DEFINITION. The registers that are stored and read back: interrupt status and enable, MAC address, ring bases, polling
control and buffer size (R85-R92, R97-R104). -/

namespace Sys2Proof.Machine

/-- RD_ISR: reading clears nothing (R85). -/
def execRdIsr (s : State) : Host.Outcome State Fault Refusal := busReadOp (fun s => s.isr) s

/-- WR_ISR: write-1-to-clear (R86). -/
def execWrIsr (value : Word) (s : State) : Host.Outcome State Fault Refusal :=
  busWriteOp (fun s => { s with isr := s.isr &&& ~~~value }) s

/-- RD_IER (R87). -/
def execRdIer (s : State) : Host.Outcome State Fault Refusal := busReadOp (fun s => s.ier) s

/-- WR_IER: all 32 bits are stored (R88). -/
def execWrIer (value : Word) (s : State) : Host.Outcome State Fault Refusal :=
  busWriteOp (fun s => { s with ier := value }) s

/-- RD_MADR (R89). -/
def execRdMadr (s : State) : Host.Outcome State Fault Refusal := busReadOp (fun s => madrValue s.mac) s

/-- WR_MADR (R90). -/
def execWrMadr (value : Word) (s : State) : Host.Outcome State Fault Refusal :=
  busWriteOp (fun s => { s with mac := withMadr value s.mac }) s

/-- RD_LADR (R91). -/
def execRdLadr (s : State) : Host.Outcome State Fault Refusal := busReadOp (fun s => ladrValue s.mac) s

/-- WR_LADR (R92). -/
def execWrLadr (value : Word) (s : State) : Host.Outcome State Fault Refusal :=
  busWriteOp (fun s => { s with mac := withLadr value s.mac }) s

/-- RD_NPTXR_BADR: the base, not the cursor (R97). -/
def execRdNptxrBadr (s : State) : Host.Outcome State Fault Refusal := busReadOp (fun s => s.txBase) s

/-- WR_NPTXR_BADR: base and cursor; a misaligned base is a model fault (R98, R177). -/
def execWrNptxrBadr (value : Word) (s : State) : Host.Outcome State Fault Refusal :=
  perform (fun s =>
    if baseLow value = 0 then .go .nothing { s with txBase := value, txCur := value }
    else raise (.ringBaseMisaligned (regOffset .nptxrBadr) value) s) s

/-- RD_RXR_BADR: the base, not the cursor (R99). -/
def execRdRxrBadr (s : State) : Host.Outcome State Fault Refusal := busReadOp (fun s => s.rxBase) s

/-- WR_RXR_BADR: base and cursor, no rescan; a misaligned base is a model fault (R100, R177). -/
def execWrRxrBadr (value : Word) (s : State) : Host.Outcome State Fault Refusal :=
  perform (fun s =>
    if baseLow value = 0 then .go .nothing { s with rxBase := value, rxCur := value }
    else raise (.ringBaseMisaligned (regOffset .rxrBadr) value) s) s

/-- RD_APTC (R101). -/
def execRdAptc (s : State) : Host.Outcome State Fault Refusal := busReadOp (fun s => s.aptc) s

/-- WR_APTC: stored, no polling starts (R102). -/
def execWrAptc (value : Word) (s : State) : Host.Outcome State Fault Refusal :=
  busWriteOp (fun s => { s with aptc := value }) s

/-- RD_RBSR (R103). -/
def execRdRbsr (s : State) : Host.Outcome State Fault Refusal := busReadOp (fun s => rbsrValue s.rbsr) s

/-- WR_RBSR: bits [13:0] (R104). -/
def execWrRbsr (value : Word) (s : State) : Host.Outcome State Fault Refusal :=
  busWriteOp (fun s => { s with rbsr := rbsrField value }) s

end Sys2Proof.Machine
end

