-- ==== Sys2Proof/Machine/TxEngine.lean ====
section
/-! DEFINITION. The transmit engine (R115-R128) and the poll-demand operations of the TX side (R93, R94). -/

namespace Sys2Proof.Machine

/-- Step 1, locate: scan upward for a descriptor with FTS or the end-of-ring bit; it writes nothing (R117). -/
def locate : Nat → Word → State → Flow Word
  | 0, _, _ => .endless
  | fuel + 1, c, s =>
    (readDesc c s).bind fun d s =>
      if d.fts || d.eor s.cfg.variant then .go c s
      else (stepUp c s).bind fun c' s => locate fuel c' s

/-- How many of a descriptor's bytes the copy takes: the accumulator is bounded by MAXF (R119). -/
def txCopyLen (s : State) (acc : List Byte) (d : Desc) : Nat :=
  if maxFrame s < acc.length + d.txSize then maxFrame s - acc.length else d.txSize

/-- Step 3, copy: append the buffer's bytes to the accumulator, truncated at MAXF with a diagnostic (R119). -/
def txCopy (acc : List Byte) (d : Desc) (s : State) : Flow (List Byte) :=
  let s' := if maxFrame s < acc.length + d.txSize then diag .txTooBig s else s
  (memRead d.buffer (txCopyLen s acc d) s').bind fun bytes s => .go (acc ++ bytes) s

/-- The interrupt a sent frame's last descriptor requests: FIFO completion instead of completion (R121). -/
def txCause (d : Desc) (s : State) : State :=
  if d.tx2fic then cause causeXpktFifo s
  else if d.txic then cause causeXpktEth s
  else s

/-- Step 4: at a last segment send the accumulated frame and empty the accumulator (R120, R121). -/
def txSend (acc : List Byte) (d : Desc) (s : State) : Flow (List Byte) :=
  if d.lts then .go [] (txCause d (send acc s)) else .go acc s

/-- Steps 3 to 6 at one owned descriptor: copy, send, hand back, advance (R116, R119-R123). -/
def txVisit (acc : List Byte) (cur : Word) (d : Desc) (s : State) : Flow (List Byte × Word) :=
  (txCopy acc d s).bind fun acc s =>
  (txSend acc d s).bind fun acc s =>
  (writeDesc cur d.handBack s).bind fun _ s =>
  (advance cur d.handBack s.txBase s).bind fun cur s => .go (acc, cur) s

/-- The loop of the kick: visit owned descriptors until one is not owned (R116, R118). -/
def txLoop : Nat → List Byte → Word → State → Flow Word
  | 0, _, _, _ => .endless
  | fuel + 1, acc, cur, s =>
    (readDesc cur s).bind fun d s =>
      if d.own then (txVisit acc cur d s).bind fun next s => txLoop fuel next.1 next.2 s
      else .go cur (cause causeNoNptxbuf s)

/-- TX_KICK: locate, walk with an empty accumulator, and persist the cursor (R116, R124). -/
def txKick (s : State) : Flow Unit :=
  (locate scanFuel s.txCur s).bind fun cur s =>
  (txLoop walkFuel [] cur s).bind fun cur s => .go () { s with txCur := cur }

/-- RD_NPTXPD: reads 0 (R93). -/
def execRdNptxpd (s : State) : Host.Outcome State Fault Refusal := busReadOp (fun _ => 0#32) s

/-- WR_NPTXPD, the kick: the value is ignored, and with TXDMA_EN = 0 nothing runs (R94, R115). -/
def execWrNptxpd (_value : Word) (s : State) : Host.Outcome State Fault Refusal :=
  perform (fun s => if txdmaEn s.maccr then (txKick s).bind fun _ s => .go .nothing s else .go .nothing s) s

end Sys2Proof.Machine
end

