-- ==== Sys2Proof/Machine/Dispatch.lean ====
section
/-! DEFINITION. exec: one arm for each operation of the opcode table. -/

namespace Sys2Proof.Machine

def exec (i : Instr) (s : State) : Host.Outcome State Fault Refusal :=
  match i with
  | .rdIsr => Sys2Proof.Machine.execRdIsr s
  | .wrIsr value => Sys2Proof.Machine.execWrIsr value s
  | .rdIer => Sys2Proof.Machine.execRdIer s
  | .wrIer value => Sys2Proof.Machine.execWrIer value s
  | .rdMadr => Sys2Proof.Machine.execRdMadr s
  | .wrMadr value => Sys2Proof.Machine.execWrMadr value s
  | .rdLadr => Sys2Proof.Machine.execRdLadr s
  | .wrLadr value => Sys2Proof.Machine.execWrLadr value s
  | .rdNptxpd => Sys2Proof.Machine.execRdNptxpd s
  | .wrNptxpd value => Sys2Proof.Machine.execWrNptxpd value s
  | .rdRxpd => Sys2Proof.Machine.execRdRxpd s
  | .wrRxpd value => Sys2Proof.Machine.execWrRxpd value s
  | .rdNptxrBadr => Sys2Proof.Machine.execRdNptxrBadr s
  | .wrNptxrBadr value => Sys2Proof.Machine.execWrNptxrBadr value s
  | .rdRxrBadr => Sys2Proof.Machine.execRdRxrBadr s
  | .wrRxrBadr value => Sys2Proof.Machine.execWrRxrBadr value s
  | .rdAptc => Sys2Proof.Machine.execRdAptc s
  | .wrAptc value => Sys2Proof.Machine.execWrAptc value s
  | .rdRbsr => Sys2Proof.Machine.execRdRbsr s
  | .wrRbsr value => Sys2Proof.Machine.execWrRbsr value s
  | .rdMaccr => Sys2Proof.Machine.execRdMaccr s
  | .wrMaccr value => Sys2Proof.Machine.execWrMaccr value s
  | .rdPhycr => Sys2Proof.Machine.execRdPhycr s
  | .wrPhycr value => Sys2Proof.Machine.execWrPhycr value s
  | .rdPhydata => Sys2Proof.Machine.execRdPhydata s
  | .wrPhydata value => Sys2Proof.Machine.execWrPhydata value s
  | .hostDeliver frame => Sys2Proof.Machine.execHostDeliver frame s
  | .hostLink up => Sys2Proof.Machine.execHostLink up s
  | .hostReset => Sys2Proof.Machine.execHostReset s
  | .hostCanReceive => Sys2Proof.Machine.execHostCanReceive s
  | .badAccessRdB off => Sys2Proof.Machine.execBadAccessRdB off s
  | .badAccessRdH off => Sys2Proof.Machine.execBadAccessRdH off s
  | .badAccessRdD off => Sys2Proof.Machine.execBadAccessRdD off s
  | .badAccessRdMis1 off => Sys2Proof.Machine.execBadAccessRdMis1 off s
  | .badAccessRdMis2 off => Sys2Proof.Machine.execBadAccessRdMis2 off s
  | .badAccessRdMis3 off => Sys2Proof.Machine.execBadAccessRdMis3 off s
  | .badAccessWrB off value => Sys2Proof.Machine.execBadAccessWrB off value s
  | .badAccessWrH off value => Sys2Proof.Machine.execBadAccessWrH off value s
  | .badAccessWrD off value => Sys2Proof.Machine.execBadAccessWrD off value s
  | .badAccessWrMis1 off value => Sys2Proof.Machine.execBadAccessWrMis1 off value s
  | .badAccessWrMis2 off value => Sys2Proof.Machine.execBadAccessWrMis2 off value s
  | .badAccessWrMis3 off value => Sys2Proof.Machine.execBadAccessWrMis3 off value s
  | .rdUnmapped off => Sys2Proof.Machine.execRdUnmapped off s
  | .wrUnmapped off value => Sys2Proof.Machine.execWrUnmapped off value s

end Sys2Proof.Machine
end

