-- ==== Sys2Proof/Machine/Sequence.lean ====
section
/-! DEFINITION. What a step does with the oldest pending input (log 1): run a presented operation, or let the guest's
store land. -/

namespace Sys2Proof.Machine

/-- A presented operation: decoded and run, or refused by name (R81, R84). -/
def runRequest (r : Request) (s : State) : Host.Outcome State Fault Refusal :=
  match decode r with
  | .ok i => exec i s
  | .error e => .refused (.noSuchOperation e)

/-- One input at a device that is not faulted (R10, R40, R44). -/
def runInput (x : Input) (s : State) : Host.Outcome State Fault Refusal :=
  match x with
  | .op r => runRequest r s
  | .guestStore addr bytes => .next (guestStore addr bytes s)

/-- The next step: a faulted device has none (R34); with nothing pending the device waits (R194, log 2); else the oldest
input is taken and runs whole (R44). -/
def stepNext (s : State) : Host.Outcome State Fault Refusal :=
  match s.faulted with
  | some k => .fault (.stuck k)
  | none =>
    match s.pending with
    | [] => .next s
    | x :: rest => runInput x { s with pending := rest }

/-- A request put in front of everything pending, so that it is the next one taken. -/
def presentFirst (r : Request) (s : State) : State := { s with pending := .op r :: s.pending }

end Sys2Proof.Machine
end

