-- ==== Sys2Proof/Machine/Step.lean ====
section
/-! DEFINITION. One step of the machine, and the placing of one operation word where the step takes its next. -/

namespace Sys2Proof.Machine

/-- One step: one whole operation, one guest store, or waiting (R44, R194). -/
def step (s : State) : Host.Outcome State Fault Refusal := stepNext s

/-- The state with the operation word `w` presented next, its out-of-band operands zero (R60, log 1). -/
def State.withFetchWord (s : State) (nbits w : Nat) : State := presentFirst (bareRequest nbits w) s

end Sys2Proof.Machine
end

