-- ==== Sys2Proof/Safety.lean ====
section
/-! DEFINITION. What counts as a safe run, and the invariant of the device's state. -/

namespace Sys2Proof.Machine

/-- No model fault has been raised (R177: "a proof about a program must show they are not reached"). -/
def State.Safe (s : State) : Prop := s.faulted = none

/-- Every state of the first `k` steps is safe and none of the steps stops. -/
def SafeRun : Nat → State → Prop
  | 0, s => s.Safe
  | k + 1, s => s.Safe ∧ ∃ t, step s = .next t ∧ SafeRun k t

/-- What holds of the device's record after power-on and after every step (each field names its rule). -/
structure State.Inv (s : State) : Prop where
  /-- guest memory is in its canonical form -/
  memCanonical : Memory.wf s.mem = true
  /-- memory lists no address that the bus has no memory at (R42: such writes have no effect) -/
  memMapped : ∀ c ∈ s.mem, hasMemory s.cfg.bus c.1 = true
  /-- the ring bases are 16-byte aligned (R21, R72) -/
  txBaseAligned : baseLow s.txBase = 0
  rxBaseAligned : baseLow s.rxBase = 0
  /-- the cursors are 16-byte aligned (R17, R50) -/
  txCurAligned : baseLow s.txCur = 0
  rxCurAligned : baseLow s.rxCur = 0
  /-- every bit of R.ISR the device never sets is 0 (R18, R65, U6) -/
  isrReserved : s.isr &&& ~~~causeMask = 0#32
  /-- rxEnabled implies RXDMA_EN (R130) -/
  enabledDma : s.rxEnabled = true → rxdmaEn s.maccr = true
  /-- SW_RST never reads back 1 (R66, R106) -/
  noSwRst : swRst s.maccr = false
  /-- MIIWR is clear after every write of PHYCR (R151) -/
  noMiiwr : s.phycr &&& miiwrBit = 0#32
  /-- phyControl holds only bits a BMCR write stores, so bit 15 reads 0 (R154, R164) -/
  bmcrBits : s.phyControl &&& ~~~bmcrMask = 0#16
  /-- phyStatus is its reset value but for the two link bits (R162-R164) -/
  bmsrBits : s.phyStatus &&& ~~~bmsrLinkBits = phyStatusReset
  /-- BMSR link status is the transport's link state (R32, R162) -/
  bmsrLink : s.phyStatus.getLsbD 2 = s.linkUp
  /-- phyAdvertise has its fixed bit and only bits an ANAR write stores (R165) -/
  anarBits : s.phyAdvertise &&& ~~~anarMask = anarAlways
  /-- INT_SOURCE bits 5, 3, 2, 1, 0 are never set (R80) -/
  phyIntBits : s.phyInt &&& ~~~(phyIntUpBits ||| phyIntDownBits) = 0#8
  /-- the line has the level of its enabled causes after every operation (R30, R172); a fault leaves it (R177) -/
  lineFollows : s.faulted = none → s.irqLevel = lineActive s

end Sys2Proof.Machine
end

