-- ==== Sys2Proof/Certificates/Slice0/Obligations.lean ====
section
/-! DEFINITION. The statements for the provers, and the few names they share. A next state written as an update of `s`
states the frame with it: every field not named is unchanged, all of memory included. -/

namespace Sys2Proof.Claims

open Sys2Proof.Machine

/-- Some enabled cause is pending: `(R.ISR & R.IER) != 0` (R172). -/
def lineHigh (s : State) : Bool := decide (s.isr &&& s.ier ≠ 0#32)

/-- The end of an operation that raised nothing: the line is driven, a change of level is recorded, and the response is
given (R114, R172). -/
def ended (r : Response) (s : State) : State :=
  { s with
    irqLevel := lineHigh s
    irqChanges := s.irqChanges ++ (if lineHigh s = s.irqLevel then [] else [lineHigh s])
    response := r }

/-- A model fault: faulted is set, the changes made so far stay, and no irq_update runs (R177). -/
def stopped (k : FaultKind) (s : State) : State := { s with faulted := some k, response := .nothing }

/-- The descriptor at an address, as the bus reads it in this state. -/
def descAt (s : State) (a : Word) : Desc := descOfBytes (busReadBytes s a.toNat 16)

/-- A descriptor's bit 31: owned by the device (TX), free for the device (RX). -/
def owned (d : Desc) : Bool := d.w0.getLsbD 31

/-- A descriptor's end-of-ring bit under the instance's variant (R78). -/
def endOfRing (s : State) (d : Desc) : Bool :=
  match s.cfg.variant with
  | .faraday => d.w0.getLsbD 15
  | .aspeed => d.w0.getLsbD 30

/-- The place after a descriptor `d` at `cur` in a ring at `base` (R47), where there is one. -/
def nextPlace (s : State) (cur : Word) (d : Desc) (base : Word) : Word := if endOfRing s d then base else cur + 16#32

/-- The ring cursor rule can move on from `cur`, and a descriptor fits at the place it moves to (R47, R48). -/
abbrev canAdvance (s : State) (cur : Word) (d : Desc) (base : Word) : Prop :=
  (endOfRing s d = true ∨ cur.toNat + 16 < 2 ^ 32) ∧ (nextPlace s cur d base).toNat + 16 ≤ 2 ^ 32

/-- MAXF (R5). -/
def frameLimit (s : State) : Nat := if s.maccr.getLsbD 13 then 9220 else 1522

/-- The memory after a descriptor is written back at an address (R46). -/
def withDesc (s : State) (m : Memory) (a : Word) (d : Desc) : Memory :=
  busWriteBytes s.cfg.bus m a.toNat (bytesOfDesc d)

/-- A TX descriptor with its OWN bit cleared (R122). -/
def released (d : Desc) : Desc := { d with w0 := d.w0 &&& 0x7FFFFFFF#32 }

/-- A TX descriptor's TXBUF_SIZE (R73). -/
def sizeField (d : Desc) : Nat := d.w0.toNat % 2 ^ 14

/-- The cause bit a sent frame's last descriptor requests (R121). -/
def requestedCause (d : Desc) : Word :=
  if d.w1.getLsbD 30 then 0x20#32 else if d.w1.getLsbD 31 then 0x10#32 else 0#32

/-- A TX descriptor at which the locate scan goes on: neither FTS nor end of ring (R117). -/
abbrev locateSkips (s : State) (d : Desc) : Prop := d.w0.getLsbD 29 = false ∧ endOfRing s d = false

/-- The descriptor `k` places above an address. -/
def placeAt (s : State) (c : Word) (k : Nat) : Desc := descAt s (c + BitVec.ofNat 32 (16 * k))

/-- A scan upward from `c` stops `k` places on: the first descriptor that is free or carries the end-of-ring bit (R133). -/
abbrev scanStops (s : State) (c : Word) (k : Nat) : Prop :=
  c.toNat + 16 * k + 16 ≤ 2 ^ 32 ∧
  (∀ j < k, owned (placeAt s c j) = false ∧ endOfRing s (placeAt s c j) = false) ∧
  (owned (placeAt s c k) = true ∨ endOfRing s (placeAt s c k) = true)

/-- Word 0 of an RX descriptor after `n` bytes went to its buffer (R141). -/
def stamped (d : Desc) (n : Nat) (first final bc ftl : Bool) : Desc :=
  { d with w0 := (d.w0 &&& 0x40008000#32) ||| BitVec.ofNat 32 n ||| (if first then 0x20000000#32 else 0#32)
      ||| (if final then 0x10000000#32 ||| (if bc then 0x00020000#32 else 0#32) ||| (if ftl then 0x00100000#32 else 0#32)
           else 0#32) }

/-- A locate scan upward from txCur stops `m` places on: the first descriptor with FTS or the end-of-ring bit, owned or not
(R117). -/
abbrev locateStops (s : State) (m : Nat) : Prop :=
  s.txCur.toNat + 16 * m + 16 ≤ 2 ^ 32 ∧ (∀ k < m, locateSkips s (placeAt s s.txCur k)) ∧
  ¬ locateSkips s (placeAt s s.txCur m)

/-- Where the loop of a kick stands: the state so far, the bytes accumulated, and the cursor (R116). -/
structure Walk where
  st  : State
  acc : List Byte
  cur : Word
deriving DecidableEq, Repr

/-- The descriptor at the cursor, read afresh (R118). -/
def Walk.desc (w : Walk) : Desc := descAt w.st w.cur

/-- The copy would exceed MAXF and is truncated (R119). -/
abbrev Walk.tooBig (w : Walk) : Prop := frameLimit w.st < w.acc.length + sizeField w.desc

/-- How many bytes the copy takes (R119). -/
def Walk.takes (w : Walk) : Nat := if w.tooBig then frameLimit w.st - w.acc.length else sizeField w.desc

/-- The bytes accumulated with this descriptor's (R119). -/
def Walk.frame (w : Walk) : List Byte := w.acc ++ busReadBytes w.st w.desc.w3.toNat w.takes

/-- The state after the copy: a truncation is logged (R119). -/
def Walk.copied (w : Walk) : State :=
  { w.st with diagTrace := w.st.diagTrace ++ (if w.tooBig then [.txTooBig] else []) }

/-- The state after the descriptor is handed back: a last segment sent the accumulated frame (R120, R121, R122). -/
def Walk.handedBack (w : Walk) : State :=
  { w.copied with
    txOut := w.st.txOut ++ (if w.desc.w0.getLsbD 28 then [w.frame] else [])
    isr := w.st.isr ||| (if w.desc.w0.getLsbD 28 then requestedCause w.desc else 0#32)
    mem := withDesc w.st w.st.mem w.cur (released w.desc) }

/-- One visit of an owned descriptor, whole (R119 to R123). -/
def Walk.visited (w : Walk) : Walk where
  st  := w.handedBack
  acc := if w.desc.w0.getLsbD 28 then [] else w.frame
  cur := nextPlace w.st w.cur w.desc w.st.txBase

/-- Where the loop of a kick at `s` stands after `n` visits, its locate scan having stopped `m` places on (R116, R117). -/
def walked (s : State) (m : Nat) : Nat → Walk
  | 0 => { st := s, acc := [], cur := s.txCur + BitVec.ofNat 32 (16 * m) }
  | n + 1 => (walked s m n).visited

/-- The loop visits the descriptor at its cursor and copies its bytes: it is owned, and those bytes lie in the address
space (R48, R118). -/
abbrev Walk.copies (w : Walk) : Prop :=
  w.cur.toNat + 16 ≤ 2 ^ 32 ∧ owned w.desc = true ∧ (w.takes = 0 ∨ w.desc.w3.toNat + w.takes ≤ 2 ^ 32)

/-- It visits that descriptor and moves on (R123). -/
abbrev Walk.movesOn (w : Walk) : Prop := w.copies ∧ canAdvance w.st w.cur w.desc w.st.txBase

/-- The four words of a descriptor, in order. -/
def wordsOf (d : Desc) : List Word := [d.w0, d.w1, d.w2, d.w3]

/-- Byte `j` of a word: its bits [8j+7:8j] (R45, R46). -/
def byteOf (w : Word) (j : Nat) : Byte := (w >>> (8 * j)).setWidth 8

/-- The bytes that descriptor `k` of a delivery gets: RBSR of them, or what is left of the stream (R139, R140). -/
def chunk (s : State) (f : List Byte) (k : Nat) : List Byte := ((rxStream s f).drop (k * s.rbsr.toNat)).take s.rbsr.toNat

/-- Bytes of the stream are left after `k` descriptors (R138: `pos < T`). -/
abbrev bytesLeft (s : State) (f : List Byte) (k : Nat) : Prop := k * s.rbsr.toNat < (rxStream s f).length

/-- What filling the descriptor at rxCur with the bytes `c` leaves, the `k`-th of a delivery of `f` at `s` (R139 to R142,
R144). -/
def filled (s : State) (f : List Byte) (k : Nat) (u : State) : State :=
  { u with
    mem := withDesc u (busWriteBytes u.cfg.bus u.mem (descAt u u.rxCur).w3.toNat (chunk s f k)) u.rxCur
      (stamped (descAt u u.rxCur) (chunk s f k).length (decide (k = 0)) (decide ¬ bytesLeft s f (k + 1)) (isBroadcast f)
        (rxTooLong s f))
    isr := u.isr ||| (if bytesLeft s f (k + 1) then 0x2#32 else 0x1#32)
    rxCur := nextPlace u u.rxCur (descAt u u.rxCur) u.rxBase }

/-- The state of a delivery of `f` at `s` after `n` descriptors (R138). -/
def delivered (s : State) (f : List Byte) : Nat → State
  | 0 => { s with diagTrace := s.diagTrace ++ (if rxTooLong s f then [.rxTooBig] else []) }
  | n + 1 => filled s f n (delivered s f n)

/-- The descriptor a delivery meets after `n` descriptors, and its place. -/
def metDesc (s : State) (f : List Byte) (n : Nat) : Desc := descAt (delivered s f n) (delivered s f n).rxCur

/-- A delivery fills the descriptor it meets after `k` descriptors and moves on: bytes are left, it is free, and its buffer
and the place after it lie in the address space (R48, R138). -/
abbrev fillsAndMovesOn (s : State) (f : List Byte) (k : Nat) : Prop :=
  bytesLeft s f k ∧ (delivered s f k).rxCur.toNat + 16 ≤ 2 ^ 32 ∧ owned (metDesc s f k) = true ∧
  (metDesc s f k).w3.toNat + (chunk s f k).length ≤ 2 ^ 32 ∧
  canAdvance s (delivered s f k).rxCur (metDesc s f k) s.rxBase

/-- A delivery's loop stops after `n` descriptors: the stream is stored, or the descriptor it meets is not free (R138,
R143). -/
abbrev stopsAfter (s : State) (f : List Byte) (n : Nat) : Prop :=
  ¬ bytesLeft s f n ∨ ((delivered s f n).rxCur.toNat + 16 ≤ 2 ^ 32 ∧ owned (metDesc s f n) = false)

/-- The state at the end of that loop: a rest of the stream is dropped with NO_RXBUF and a diagnostic (R143). -/
def loopEnd (s : State) (f : List Byte) (n : Nat) : State :=
  if bytesLeft s f n then
    { delivered s f n with
      isr := (delivered s f n).isr ||| 0x4#32, diagTrace := (delivered s f n).diagTrace ++ [.rxNoBuffer] }
  else delivered s f n

/-- The operations that reset the device (R190). -/
def isReset (i : Instr) : Prop := i = .hostReset ∨ ∃ v : Word, v.getLsbD 31 = true ∧ i = .wrMaccr v

/-- The reset values of R38 over what a reset keeps (R195), before the line is driven. -/
def resetOf (s : State) : State :=
  { s with
    isr := 0#32, ier := 0#32, mac := s.cfg.macAddrInit, rxBase := 0#32, txBase := 0#32, rbsr := 0x640#14, aptc := 1#32
    maccr := 0#32, phycr := 0#32, phydata := 0#32, txCur := 0#32, rxCur := 0#32, rxEnabled := false
    phyControl := 0x3000#16, phyStatus := if s.linkUp then 0x782D#16 else 0x7809#16, phyAdvertise := 0x01E1#16
    phyInt := if s.linkUp then 0xC0#8 else 0x10#8, phyIntMask := 0#8 }

/-- The thirteen register reads: operation word, operation, and the value the rules give (R85 to R109). -/
def registerReads (s : State) : List (Nat × Instr × Word) :=
  [(0x00008000, .rdIsr, s.isr), (0x00008004, .rdIer, s.ier),
   (0x00008008, .rdMadr, s.mac.b0.setWidth 32 <<< 8 ||| s.mac.b1.setWidth 32),
   (0x0000800C, .rdLadr, s.mac.b2.setWidth 32 <<< 24 ||| s.mac.b3.setWidth 32 <<< 16 ||| s.mac.b4.setWidth 32 <<< 8
      ||| s.mac.b5.setWidth 32),
   (0x00008018, .rdNptxpd, 0#32), (0x0000801C, .rdRxpd, 0#32),
   (0x00008020, .rdNptxrBadr, s.txBase), (0x00008024, .rdRxrBadr, s.rxBase),
   (0x00008034, .rdAptc, s.aptc), (0x0000804C, .rdRbsr, s.rbsr.setWidth 32), (0x00008050, .rdMaccr, s.maccr),
   (0x00008060, .rdPhycr, s.phycr), (0x00008064, .rdPhydata, s.phydata)]

/-- The register writes that store and raise nothing: operation word, operation, and the state the rules give (R86, R88,
R90, R92, R96, R102, R104, R110). -/
def storingWrites (v : Word) (s : State) : List (Nat × Instr × State) :=
  [(0x0000A000, .wrIsr v, { s with isr := s.isr &&& ~~~v }), (0x0000A004, .wrIer v, { s with ier := v }),
   (0x0000A008, .wrMadr v, { s with mac := { s.mac with b0 := (v >>> 8).setWidth 8, b1 := v.setWidth 8 } }),
   (0x0000A00C, .wrLadr v, { s with mac := { s.mac with
      b2 := (v >>> 24).setWidth 8, b3 := (v >>> 16).setWidth 8, b4 := (v >>> 8).setWidth 8, b5 := v.setWidth 8 } }),
   (0x0000A01C, .wrRxpd v, s), (0x0000A034, .wrAptc v, { s with aptc := v }),
   (0x0000A04C, .wrRbsr v, { s with rbsr := v.setWidth 14 }),
   (0x0000A064, .wrPhydata v, { s with phydata := v &&& 0x0000FFFF#32 })]

/-- The twelve invalid accesses with their responses (R111). -/
def invalidAccesses (off : Offset) (b : Byte) (h : Half) (v : Word) (d : DWord) : List (Instr × Response) :=
  [(.badAccessRdB off, .rd8 0#8), (.badAccessRdH off, .rd16 0#16), (.badAccessRdD off, .rd64 0#64),
   (.badAccessRdMis1 off, .rd32 0#32), (.badAccessRdMis2 off, .rd32 0#32), (.badAccessRdMis3 off, .rd32 0#32),
   (.badAccessWrB off b, .nothing), (.badAccessWrH off h, .nothing), (.badAccessWrD off d, .nothing),
   (.badAccessWrMis1 off v, .nothing), (.badAccessWrMis2 off v, .nothing), (.badAccessWrMis3 off v, .nothing)]

/-- The thirteen offsets of R63. -/
def listedOffsets : List Nat := [0x00, 0x04, 0x08, 0x0C, 0x18, 0x1C, 0x20, 0x24, 0x34, 0x4C, 0x50, 0x60, 0x64]

/-- The value an MDIO read of an index returns (R153). -/
def phyValue (s : State) (reg : Nat) : Half :=
  match reg with
  | 0 => s.phyControl
  | 1 => s.phyStatus
  | 2 => s.cfg.phyId1
  | 3 => s.cfg.phyId2
  | 4 => s.phyAdvertise
  | 29 => s.phyInt.setWidth 16
  | 30 => s.phyIntMask.setWidth 16
  | _ => 0#16

/-- The index REGAD of a PHYCR value, bits [25:21] (R69). -/
def regad (v : Word) : Nat := (v >>> 21).toNat % 32

/-- An index the PHY does not have: 5 to 28 and 31 (R160, R167). -/
abbrev noSuchReg (reg : Nat) : Prop := (5 ≤ reg ∧ reg ≤ 28) ∨ reg = 31

/-- R.ISR with PHYSTS_CHG evaluated from a PHY source and mask (R168). -/
def evalIsr (isr : Word) (src mask : Byte) : Word :=
  if src &&& mask ≠ 0#8 then isr ||| 0x00000200#32 else isr &&& ~~~0x00000200#32

/-- The state with nothing on the diagnostic trace. -/
def withoutDiag (o : Host.Outcome State Fault Refusal) : Host.Outcome State Fault Refusal :=
  match o with
  | .next t => .next { t with diagTrace := [] }
  | .fault f => .fault f
  | .refused r => .refused r

end Sys2Proof.Claims

open Sys2Proof Sys2Proof.Machine Sys2Proof.Claims

/-! ### Encoding and the step -/

/-- Decoding an operation's encoding gives it back with every operand (R60, R63, R84). -/
def Obligations.DecodeOfEncodeIsTheOperation : Prop :=
  ∀ i : Instr, i.wellFormed = true → decode (encode i) = .ok i

/-- What a request decodes to is well formed and is encoded by the same word: each word has one meaning (R84). -/
def Obligations.DecodedWordIsTheEncodedWord : Prop :=
  ∀ (r : Request) (i : Instr), decode r = .ok i → i.wellFormed = true ∧ (encode i).word = r.word

/-- The decoder selects the first row of the opcode table, in priority order, that the word matches, and refuses a word that
matches none (R84). -/
def Obligations.DecoderSelectsFirstMatchingRow : Prop :=
  ∀ r : Request,
    match decode r with
    | .ok i => ∃ row, opcodeTable.find? (fun row => r.word &&& row.mask == row.pattern) = some row ∧
        row.mnemonic = i.mnemonic
    | .error _ => opcodeTable.find? (fun row => r.word &&& row.mask == row.pattern) = none

/-- Words written out from the formats of R60 and R82 decode to the operations they stand for. -/
def Obligations.SampleWordsDecode : Prop :=
  decode ⟨0x00008050#32, 0#64, [], false⟩ = .ok .rdMaccr ∧
  decode ⟨0x0000A020#32, 0x1000#64, [], false⟩ = .ok (.wrNptxrBadr 0x1000#32) ∧
  decode ⟨0x00004000#32, 0#64, [], false⟩ = .ok (.badAccessRdH 0#13) ∧
  decode ⟨0x0000A003#32, 7#64, [], false⟩ = .ok (.badAccessWrMis3 3#13 7#32) ∧
  decode ⟨0x00009FFC#32, 0#64, [], false⟩ = .ok (.rdUnmapped 0x1FFC#13) ∧
  decode ⟨0x80000000#32, 0#64, [1#8], false⟩ = .ok (.hostDeliver [1#8]) ∧
  decode ⟨0x80000001#32, 0#64, [], true⟩ = .ok (.hostLink true)

/-- A step refuses a word that is no operation: an MMIO word with bits [30:16] not 0, a HOST word with bits [30:4] not 0 or
EV of 4 or more (R81). -/
def Obligations.ReservedWordsAreRefused : Prop :=
  ∀ (s : State) (r : Request) (rest : List Input), s.faulted = none → s.pending = .op r :: rest →
    ((r.word.getLsbD 31 = false ∧ 0x10000 ≤ r.word.toNat) ∨ (r.word.getLsbD 31 = true ∧ 0x80000004 ≤ r.word.toNat)) →
    ∃ e, step s = .refused (.noSuchOperation e)

/-- A step runs the decoded operation on the state with that input taken (R44; the queue of inputs is the model's, log 1). -/
def Obligations.StepRunsTheDecodedOperation : Prop :=
  ∀ (s : State) (r : Request) (rest : List Input) (i : Instr), s.faulted = none → s.pending = .op r :: rest →
    decode r = .ok i → step s = exec i { s with pending := rest }

/-- With nothing pending the device waits (R194); a guest store lands where the bus has memory and changes nothing of the
device (R40, R44). Both forms of input are the model's (log 1, 2, 3). -/
def Obligations.StepWaitsOrLetsTheGuestStore : Prop :=
  ∀ s : State, s.faulted = none →
    (s.pending = [] → step s = .next s) ∧
    (∀ addr bytes rest, s.pending = .guestStore addr bytes :: rest →
      step s = .next { s with pending := rest, mem := busWriteBytes s.cfg.bus s.mem addr.toNat bytes })

/-- Once faulted is set, no operation and no step goes on (R34, R177). -/
def Obligations.FaultedDeviceHasNoStep : Prop :=
  ∀ (s : State) (k : FaultKind), s.faulted = some k →
    step s = .fault (.stuck k) ∧ ∀ i : Instr, exec i s = .fault (.stuck k)

/-! ### Registers -/

/-- Every register read answers its value, changes nothing else, and is the operation of its word (R85 to R109, R114). -/
def Obligations.RegisterReadsAnswerTheirValue : Prop :=
  ∀ s : State, s.faulted = none → ∀ p ∈ registerReads s,
    decodeTableWord 32 p.1 = some p.2.1 ∧ exec p.2.1 s = .next (ended (.rd32 p.2.2) s)

/-- Every storing register write has the effect its rule gives and no other, and is the operation of its word (R86, R88,
R90, R92, R96, R102, R104, R110, R114). -/
def Obligations.StoringWritesStoreTheirField : Prop :=
  ∀ (s : State) (v : Word), s.faulted = none → ∀ p ∈ storingWrites v s,
    decode ⟨BitVec.ofNat 32 p.1, v.setWidth 64, [], false⟩ = .ok p.2.1 ∧ exec p.2.1 s = .next (ended .nothing p.2.2)

/-- A ring base write with value[3:0] = 0 moves base and cursor; any other raises F_RING_BASE_MISALIGNED with the register's
offset and the value, and changes nothing else (R98, R100, R177). -/
def Obligations.RingBaseWriteMovesTheCursor : Prop :=
  ∀ (s : State) (v : Word), s.faulted = none →
    (v.toNat % 16 = 0 →
      exec (.wrNptxrBadr v) s = .next (ended .nothing { s with txBase := v, txCur := v }) ∧
      exec (.wrRxrBadr v) s = .next (ended .nothing { s with rxBase := v, rxCur := v })) ∧
    (v.toNat % 16 ≠ 0 →
      exec (.wrNptxrBadr v) s = .next (stopped (.ringBaseMisaligned 0x20#13 v) s) ∧
      exec (.wrRxrBadr v) s = .next (stopped (.ringBaseMisaligned 0x24#13 v) s))

/-- An access of size 1, 2 or 8, or of size 4 at a misaligned offset, reads 0 of its size or writes nothing and logs
DG_BAD_ACCESS; every such word is one of the twelve operations, with its own offset, and every value is admitted (R111). -/
def Obligations.InvalidAccessIsLoggedAndIgnored : Prop :=
  (∀ (s : State) (off : Offset) (b : Byte) (h : Half) (v : Word) (d : DWord), s.faulted = none →
    ∀ p ∈ invalidAccesses off b h v d,
      exec p.1 s = .next (ended p.2 { s with diagTrace := s.diagTrace ++ [.badAccess] })) ∧
  (∀ r : Request, r.word.toNat < 0x10000 → (r.word.toNat / 0x4000 ≠ 2 ∨ r.word.toNat % 4 ≠ 0) →
    ∃ p ∈ invalidAccesses (r.word.setWidth 13) (r.value.setWidth 8) (r.value.setWidth 16) (r.value.setWidth 32) r.value,
      decode r = .ok p.1 ∧ (p.2 = .nothing ↔ r.word.getLsbD 13 = true))

/-- An aligned 4-byte access at an unlisted offset reads 0 or writes nothing and logs DG_UNMAPPED; every such word is one of
the two operations (R112, R113). -/
def Obligations.UnmappedAccessIsLoggedAndIgnored : Prop :=
  (∀ (s : State) (off : Offset) (v : Word), s.faulted = none →
    exec (.rdUnmapped off) s = .next (ended (.rd32 0#32) { s with diagTrace := s.diagTrace ++ [.unmapped] }) ∧
    exec (.wrUnmapped off v) s = .next (ended .nothing { s with diagTrace := s.diagTrace ++ [.unmapped] })) ∧
  (∀ r : Request, r.word.toNat < 0x10000 → r.word.toNat / 0x4000 = 2 → r.word.toNat % 4 = 0 →
    r.word.toNat % 0x2000 ∉ listedOffsets →
    decode r = .ok (if r.word.getLsbD 13 then .wrUnmapped (r.word.setWidth 13) (r.value.setWidth 32)
      else .rdUnmapped (r.word.setWidth 13)))

/-- A MACCR write that neither resets nor takes RXDMA_EN from 0 to 1 stores the value, and clears rxEnabled exactly when it
writes RXDMA_EN = 0; it does not scan and does not transmit (R106, R134). -/
def Obligations.MaccrWriteWithoutTransitionStores : Prop :=
  ∀ (s : State) (v : Word), s.faulted = none → v.getLsbD 31 = false → (v.getLsbD 1 = true → s.maccr.getLsbD 1 = true) →
    exec (.wrMaccr v) s =
      .next (ended .nothing { s with maccr := v, rxEnabled := if v.getLsbD 1 then s.rxEnabled else false })

/-- Taking RXDMA_EN from 0 to 1 runs the enable scan: from rxCur upward to the first descriptor that is free or carries the
end-of-ring bit, `n` places on; rxEnabled becomes whether that one is free, and rxCur does not move (R106, R132, R133). -/
def Obligations.RxDmaEnableScansForAFreeDescriptor : Prop :=
  ∀ (s : State) (v : Word) (n : Nat), s.faulted = none → v.getLsbD 31 = false → v.getLsbD 1 = true →
    s.maccr.getLsbD 1 = false → scanStops s s.rxCur n →
    exec (.wrMaccr v) s = .next (ended .nothing { s with maccr := v, rxEnabled := owned (placeAt s s.rxCur n) })

/-- An enable scan that meets neither a free nor an end-of-ring descriptor up to the top of the address space raises
F_ADDR_WRAP: R.MACCR is written, rxEnabled and the line are not (R48, R133, R177; what it records: log 10). -/
def Obligations.EnableScanPastTheTopRaisesAddrWrap : Prop :=
  ∀ (s : State) (v : Word), s.faulted = none → v.getLsbD 31 = false → v.getLsbD 1 = true →
    s.maccr.getLsbD 1 = false → s.rxCur.toNat % 16 = 0 →
    (∀ k, s.rxCur.toNat + 16 * k + 16 ≤ 2 ^ 32 →
      owned (placeAt s s.rxCur k) = false ∧ endOfRing s (placeAt s s.rxCur k) = false) →
    exec (.wrMaccr v) s = .next (stopped (.addrWrap (2 ^ 32) 16) { s with maccr := v })

/-! ### Reset -/

/-- A device reset and a software reset give every component the value of R38 and keep memory, linkUp, txOut, diagTrace and
the parameters; the line is low after it (R38, R191, R195). -/
def Obligations.DeviceResetGivesTheResetValues : Prop :=
  ∀ s : State, s.faulted = none → exec .hostReset s = .next (ended .nothing (resetOf s)) ∧
    (∀ v : Word, v.getLsbD 31 = true → exec (.wrMaccr v) s = .next (ended .nothing (resetOf s))) ∧
    (ended .nothing (resetOf s)).irqLevel = false

/-- A MACCR write with SW_RST = 1 is the same procedure as a device reset, whatever its other bits, and both restore the MAC
address (R106, R192). -/
def Obligations.SoftwareResetIsDeviceReset : Prop :=
  ∀ (s : State) (v : Word), v.getLsbD 31 = true → exec (.wrMaccr v) s = exec .hostReset s ∧
    ∀ t, exec .hostReset s = .next t → t.mac = s.cfg.macAddrInit ∧ t.maccr = 0#32

/-- Power-on is the reset state with linkUp = LINK_INIT, no frame sent, no diagnostic and no fault (R39); the two fields of
the model's own and the memory that lists nothing are the model's choice (log 1, 4, 8). -/
def Obligations.PowerOnIsTheResetState : Prop :=
  ∀ p : Params,
    State.powerOn p = resetOf (State.powerOn p) ∧ (State.powerOn p).linkUp = p.linkInit ∧
    (State.powerOn p).txOut = [] ∧ (State.powerOn p).diagTrace = [] ∧ (State.powerOn p).faulted = none ∧
    (State.powerOn p).irqLevel = false ∧ (State.powerOn p).irqChanges = [] ∧ State.reset = State.powerOn Config.params

/-! ### PHY -/

/-- LINK sets the transport's link state, re-derives the PHY status, raises its interrupt-source bits and evaluates
PHYSTS_CHG (R161, R162, R168). -/
def Obligations.LinkEventRederivesThePhy : Prop :=
  ∀ (s : State) (up : Bool), s.faulted = none →
    exec (.hostLink up) s = .next (ended .nothing
      { s with
        linkUp := up
        phyStatus := if up then s.phyStatus ||| 0x0024#16 else s.phyStatus &&& ~~~0x0024#16
        phyInt := if up then s.phyInt ||| 0xC0#8 else s.phyInt ||| 0x10#8
        isr := evalIsr s.isr (if up then s.phyInt ||| 0xC0#8 else s.phyInt ||| 0x10#8) s.phyIntMask })

/-- A PHYCR write with MIIWR = 0 is an MDIO read: PHYDATA becomes the value shifted to [31:16], MIIRD is cleared, an index
the PHY lacks is logged, and reading INT_SOURCE clears it and PHYSTS_CHG (R108, R151, R153 to R160). -/
def Obligations.MdioReadReturnsThePhyRegister : Prop :=
  ∀ (s : State) (v : Word), s.faulted = none → v.getLsbD 27 = false →
    (¬ noSuchReg (regad v) → regad v ≠ 29 →
      exec (.wrPhycr v) s = .next (ended .nothing
        { s with phycr := v &&& ~~~0x04000000#32, phydata := (phyValue s (regad v)).setWidth 32 <<< 16 })) ∧
    (regad v = 29 →
      exec (.wrPhycr v) s = .next (ended .nothing
        { s with phycr := v &&& ~~~0x04000000#32, phydata := s.phyInt.setWidth 32 <<< 16, phyInt := 0#8
                 isr := s.isr &&& ~~~0x00000200#32 })) ∧
    (noSuchReg (regad v) →
      exec (.wrPhycr v) s = .next (ended .nothing
        { s with phycr := v &&& ~~~0x04000000#32, phydata := 0#32, diagTrace := s.diagTrace ++ [.phyBadReg] }))

/-- A PHYCR write with MIIWR = 1 writes PHYDATA[15:0] to the index and clears MIIWR, MIIWR alone: for a value with MIIRD as
well MIIRD stays set, which is the model's reading of R151 against R25, R107 and R207 (log 15). BMCR stores its mask and completes
auto-negotiation, ANAR stores its mask with bit 7 set, INT_MASK stores 8 bits and evaluates PHYSTS_CHG, the read-only
indices ignore it, and an index the PHY lacks is logged (R151, R152, R164 to R167). -/
def Obligations.MdioWriteStoresThePhyRegister : Prop :=
  ∀ (s : State) (v : Word), s.faulted = none → v.getLsbD 27 = true →
    (regad v = 0 → s.phydata.getLsbD 15 = false →
      exec (.wrPhycr v) s = .next (ended .nothing
        { s with phycr := v &&& ~~~0x08000000#32, phyControl := s.phydata.setWidth 16 &&& 0x7980#16
                 phyStatus := if s.phydata.getLsbD 12 then s.phyStatus ||| 0x0020#16 else s.phyStatus })) ∧
    (regad v = 4 →
      exec (.wrPhycr v) s = .next (ended .nothing
        { s with phycr := v &&& ~~~0x08000000#32
                 phyAdvertise := (s.phydata.setWidth 16 &&& 0x2D7F#16) ||| 0x0080#16 })) ∧
    (regad v = 30 →
      exec (.wrPhycr v) s = .next (ended .nothing
        { s with phycr := v &&& ~~~0x08000000#32, phyIntMask := s.phydata.setWidth 8
                 isr := evalIsr s.isr s.phyInt (s.phydata.setWidth 8) })) ∧
    (regad v = 1 ∨ regad v = 2 ∨ regad v = 3 ∨ regad v = 29 →
      exec (.wrPhycr v) s = .next (ended .nothing { s with phycr := v &&& ~~~0x08000000#32 })) ∧
    (noSuchReg (regad v) →
      exec (.wrPhycr v) s = .next (ended .nothing
        { s with phycr := v &&& ~~~0x08000000#32, diagTrace := s.diagTrace ++ [.phyBadReg] }))

/-- An MDIO write of BMCR with bit 15 runs a PHY reset: the PHY registers take their reset values, link state is re-derived,
PHYSTS_CHG is cleared, and no MAC register, cursor or flag changes but MIIWR (R163, R164, R193). For a value with MIIRD as
well MIIRD stays set, which is the model's reading of R151 against R25, R107 and R207 (log 15). -/
def Obligations.BmcrResetBitResetsOnlyThePhy : Prop :=
  ∀ (s : State) (v : Word), s.faulted = none → v.getLsbD 27 = true → regad v = 0 → s.phydata.getLsbD 15 = true →
    exec (.wrPhycr v) s = .next (ended .nothing
      { s with
        phycr := v &&& ~~~0x08000000#32, phyControl := 0x3000#16, phyAdvertise := 0x01E1#16, phyIntMask := 0#8
        phyStatus := if s.linkUp then 0x782D#16 else 0x7809#16
        phyInt := if s.linkUp then 0xC0#8 else 0x10#8
        isr := s.isr &&& ~~~0x00000200#32 })

/-! ### Interrupts -/

/-- After every operation that raised no model fault the line is high exactly when some enabled cause is pending (R30,
R172). -/
def Obligations.LineFollowsTheEnabledCauses : Prop :=
  ∀ (i : Instr) (s t : State), exec i s = .next t → t.faulted = none →
    t.irqLevel = decide (t.isr &&& t.ier ≠ 0#32)

/-- An operation moves the line at most once, at its end, and one entry is recorded for a change and none otherwise (R172,
R174, R189). -/
def Obligations.LineChangesAtMostOncePerOperation : Prop :=
  ∀ (i : Instr) (s t : State), exec i s = .next t →
    (t.irqLevel = s.irqLevel ∧ t.irqChanges = s.irqChanges) ∨
    (t.irqLevel = !s.irqLevel ∧ t.irqChanges = s.irqChanges ++ [!s.irqLevel])

/-- Cause bits are sticky: no operation clears one but a W1C of that bit, a reset, and, for PHYSTS_CHG, a false PHY
evaluation, by an MDIO access or a link event (R201). -/
def Obligations.CauseBitsAreSticky : Prop :=
  ∀ (i : Instr) (s t : State) (b : Nat), exec i s = .next t → s.isr.getLsbD b = true → t.isr.getLsbD b = false →
    (∃ v : Word, v.getLsbD b = true ∧ i = .wrIsr v) ∨ isReset i ∨
      (b = 9 ∧ t.phyInt &&& t.phyIntMask = 0#8 ∧ ((∃ v, i = .wrPhycr v) ∨ ∃ up, i = .hostLink up))

/-- Which operation sets which cause bit: receive bits only a delivery, transmit bits only a kick, PHYSTS_CHG only an MDIO
access or a link event; no other bit is ever set (R18, R173). -/
def Obligations.CauseBitsAreSetOnlyByTheirEvents : Prop :=
  ∀ (i : Instr) (s t : State) (b : Nat), exec i s = .next t → s.isr.getLsbD b = false → t.isr.getLsbD b = true →
    ((b = 0 ∨ b = 1 ∨ b = 2) ∧ ∃ f, i = .hostDeliver f) ∨ ((b = 4 ∨ b = 5 ∨ b = 6) ∧ ∃ v, i = .wrNptxpd v) ∨
      (b = 9 ∧ t.phyInt &&& t.phyIntMask ≠ 0#8 ∧ ((∃ v, i = .wrPhycr v) ∨ ∃ up, i = .hostLink up))

/-- Which operations change which component, over every operation: the frame of the whole machine. A model fault is raised
only by a misaligned ring base write, a MACCR write that runs the enable scan, a kick that runs, and a delivery that is
accepted (R15, R18 to R34, R177). The line and the record of its changes follow at the end of any operation, and every
operation gives its own response. -/
def Obligations.OnlyItsOwnOperationsChangeAComponent : Prop :=
  ∀ (i : Instr) (s t : State), exec i s = .next t →
    t.cfg = s.cfg ∧ t.pending = s.pending ∧
    (t.linkUp = s.linkUp ∨ i = .hostLink t.linkUp) ∧
    (t.ier = s.ier ∨ i = .wrIer t.ier ∨ isReset i) ∧
    (t.mac = s.mac ∨ (∃ v, i = .wrMadr v ∨ i = .wrLadr v) ∨ isReset i) ∧
    (t.txBase = s.txBase ∨ i = .wrNptxrBadr t.txBase ∨ isReset i) ∧
    (t.rxBase = s.rxBase ∨ i = .wrRxrBadr t.rxBase ∨ isReset i) ∧
    (t.txCur = s.txCur ∨ i = .wrNptxrBadr t.txCur ∨ (∃ v, i = .wrNptxpd v) ∨ isReset i) ∧
    (t.rxCur = s.rxCur ∨ i = .wrRxrBadr t.rxCur ∨ (∃ f, i = .hostDeliver f) ∨ isReset i) ∧
    (t.rbsr = s.rbsr ∨ (∃ v, i = .wrRbsr v) ∨ isReset i) ∧
    (t.aptc = s.aptc ∨ i = .wrAptc t.aptc ∨ isReset i) ∧
    (t.maccr = s.maccr ∨ i = .wrMaccr t.maccr ∨ isReset i) ∧
    (t.phycr = s.phycr ∨ (∃ v, i = .wrPhycr v) ∨ isReset i) ∧
    (t.phydata = s.phydata ∨ (∃ v, i = .wrPhydata v ∨ i = .wrPhycr v) ∨ isReset i) ∧
    (t.rxEnabled = s.rxEnabled ∨ (∃ v, i = .wrMaccr v) ∨ (∃ f, i = .hostDeliver f) ∨ isReset i) ∧
    (t.phyControl = s.phyControl ∧ t.phyAdvertise = s.phyAdvertise ∧ t.phyIntMask = s.phyIntMask ∨
      (∃ v, i = .wrPhycr v) ∨ isReset i) ∧
    (t.phyStatus = s.phyStatus ∧ t.phyInt = s.phyInt ∨ (∃ v, i = .wrPhycr v) ∨ (∃ up, i = .hostLink up) ∨ isReset i) ∧
    (t.mem = s.mem ∨ (∃ v, i = .wrNptxpd v) ∨ ∃ f, i = .hostDeliver f) ∧
    (t.txOut = s.txOut ∨ ∃ v, i = .wrNptxpd v) ∧ s.txOut <+: t.txOut ∧ s.diagTrace <+: t.diagTrace ∧
    (t.isr = s.isr ∨ (∃ v, i = .wrIsr v ∨ i = .wrNptxpd v ∨ i = .wrPhycr v) ∨ (∃ f, i = .hostDeliver f) ∨
      (∃ up, i = .hostLink up) ∨ isReset i) ∧
    (t.faulted = s.faulted ∨ (∃ v : Word, v.toNat % 16 ≠ 0 ∧ (i = .wrNptxrBadr v ∨ i = .wrRxrBadr v)) ∨
      (∃ v : Word, v.getLsbD 31 = false ∧ v.getLsbD 1 = true ∧ s.maccr.getLsbD 1 = false ∧ i = .wrMaccr v) ∨
      (∃ v, s.maccr.getLsbD 0 = true ∧ i = .wrNptxpd v) ∨ ∃ f, s.rxEnabled = true ∧ i = .hostDeliver f)

/-- The diagnostic trace can be dropped: no operation's other effects depend on it (R176). -/
def Obligations.DiagnosticsAreInvisible : Prop :=
  ∀ (i : Instr) (s : State) (d : List Diag),
    withoutDiag (exec i { s with diagTrace := d }) = withoutDiag (exec i s)

/-! ### Transmit -/

/-- With TXDMA_EN = 0 a kick has no effect: no descriptor is read, txCur does not move, no cause bit is set (R94, R115). -/
def Obligations.KickWithoutTxDmaDoesNothing : Prop :=
  ∀ (s : State) (v : Word), s.faulted = none → s.maccr.getLsbD 0 = false →
    exec (.wrNptxpd v) s = .next (ended .nothing s)

/-- The locate scan goes upward over descriptors without FTS and end-of-ring bit, owned or not, and stops at the first that
has one, `n` places on; where that one is not owned the kick sends nothing, writes nothing, sets NO_NPTXBUF and stores its
address in txCur (R117, R118, R124, R126). -/
def Obligations.KickStopsAtAnUnownedDescriptor : Prop :=
  ∀ (s : State) (v : Word) (n : Nat), s.faulted = none → s.maccr.getLsbD 0 = true →
    s.txCur.toNat + 16 * n + 16 ≤ 2 ^ 32 →
    (∀ k < n, locateSkips s (placeAt s s.txCur k)) → ¬ locateSkips s (placeAt s s.txCur n) →
    owned (placeAt s s.txCur n) = false →
    exec (.wrNptxpd v) s = .next (ended .nothing
      { s with isr := s.isr ||| 0x40#32, txCur := s.txCur + BitVec.ofNat 32 (16 * n) })

/-- A kick at an owned first-and-last descriptor, the next place not owned: its buffer's bytes are sent as one frame, the
requested cause and NO_NPTXBUF are set, the descriptor is written back with OWN cleared, and txCur is the next place (R116,
R119 to R124). -/
def Obligations.KickSendsAOneDescriptorFrame : Prop :=
  ∀ (s : State) (v : Word) (d : Desc) (m : Memory) (c : Word), s.faulted = none → s.maccr.getLsbD 0 = true →
    s.txCur.toNat + 16 ≤ 2 ^ 32 → d = descAt s s.txCur →
    owned d = true → ¬ locateSkips s d → d.w0.getLsbD 28 = true →
    sizeField d ≤ frameLimit s → d.w3.toNat + sizeField d ≤ 2 ^ 32 →
    canAdvance s s.txCur d s.txBase → c = nextPlace s s.txCur d s.txBase → m = withDesc s s.mem s.txCur (released d) →
    owned (descAt { s with mem := m } c) = false →
    exec (.wrNptxpd v) s = .next (ended .nothing
      { s with
        mem := m
        txOut := s.txOut ++ [busReadBytes s d.w3.toNat (sizeField d)]
        isr := s.isr ||| requestedCause d ||| 0x40#32
        txCur := c })

/-- A frame over two descriptors is sent whole: the bytes of both buffers in order as one frame, each descriptor handed back
(R116, R119 to R124). -/
def Obligations.KickGathersATwoDescriptorFrame : Prop :=
  ∀ (s : State) (v : Word) (d e : Desc) (m m' : Memory) (c c' : Word), s.faulted = none → s.maccr.getLsbD 0 = true →
    s.txCur.toNat + 16 ≤ 2 ^ 32 → d = descAt s s.txCur →
    owned d = true → ¬ locateSkips s d → d.w0.getLsbD 28 = false →
    d.w3.toNat + sizeField d ≤ 2 ^ 32 →
    canAdvance s s.txCur d s.txBase → c = nextPlace s s.txCur d s.txBase → m = withDesc s s.mem s.txCur (released d) →
    e = descAt { s with mem := m } c → owned e = true → e.w0.getLsbD 28 = true →
    sizeField d + sizeField e ≤ frameLimit s → e.w3.toNat + sizeField e ≤ 2 ^ 32 →
    canAdvance s c e s.txBase → c' = nextPlace s c e s.txBase → m' = withDesc s m c (released e) →
    owned (descAt { s with mem := m' } c') = false →
    exec (.wrNptxpd v) s = .next (ended .nothing
      { s with
        mem := m'
        txOut := s.txOut ++
          [busReadBytes s d.w3.toNat (sizeField d) ++ busReadBytes { s with mem := m } e.w3.toNat (sizeField e)]
        isr := s.isr ||| requestedCause e ||| 0x40#32
        txCur := c' })

/-- One visit of an owned descriptor (steps 3 to 6), for every accumulator: at most MAXF bytes accumulate, a truncation is
logged, a last segment sends the frame and sets at most one requested cause, OWN alone is cleared in the write-back, and
the cursor moves by the ring cursor rule (R119 to R123, R126). -/
def Obligations.TxVisitCopiesSendsAndHandsBack : Prop :=
  ∀ (s : State) (acc : List Byte) (cur : Word) (d : Desc) (n : Nat) (frame : List Byte),
    n = (if frameLimit s < acc.length + sizeField d then frameLimit s - acc.length else sizeField d) →
    (n = 0 ∨ d.w3.toNat + n ≤ 2 ^ 32) → cur.toNat + 16 ≤ 2 ^ 32 →
    (endOfRing s d = true ∨ cur.toNat + 16 < 2 ^ 32) → frame = acc ++ busReadBytes s d.w3.toNat n →
    txVisit acc cur d s =
      .go (if d.w0.getLsbD 28 then [] else frame, nextPlace s cur d s.txBase)
        { s with
          diagTrace := s.diagTrace ++ (if frameLimit s < acc.length + sizeField d then [.txTooBig] else [])
          txOut := s.txOut ++ (if d.w0.getLsbD 28 then [frame] else [])
          isr := s.isr ||| (if d.w0.getLsbD 28 then requestedCause d else 0#32)
          mem := withDesc s s.mem cur (released d) }

/-- A kick of any length: from the descriptor its locate scan stops at, `m` places on, it visits `n` owned descriptors in
order, sends a frame at each last segment, and stops at the first that is not owned, where it sets NO_NPTXBUF and stores the
cursor. Bytes of a frame whose last segment was not reached are discarded: txOut holds what the visits sent (R116 to R126,
R200). The bound on `n` is the model's count of visits, which no kick uses up under the default BUS (log 11). -/
def Obligations.KickVisitsDescriptorsInOrder : Prop :=
  ∀ (s : State) (v : Word) (m n : Nat) (w : Walk), s.faulted = none → s.maccr.getLsbD 0 = true → n ≤ 2 ^ 32 →
    locateStops s m → (∀ k < n, (walked s m k).movesOn) → w = walked s m n →
    w.cur.toNat + 16 ≤ 2 ^ 32 → owned w.desc = false →
    exec (.wrNptxpd v) s = .next (ended .nothing { w.st with isr := w.st.isr ||| 0x40#32, txCur := w.cur })

/-- A kick whose bytes to copy from a buffer pass the top of the address space, at the first descriptor or after `n` visits,
truncated or not, raises F_ADDR_WRAP before any of them is copied and before that descriptor is sent or handed back; what the
visits before it did stays, and txCur does not move (R48, R116, R119, R177; the bound on `n`: log 11). -/
def Obligations.KickBufferPastTheTopRaisesAddrWrap : Prop :=
  ∀ (s : State) (v : Word) (m n : Nat) (w : Walk), s.faulted = none → s.maccr.getLsbD 0 = true → n < 2 ^ 32 →
    locateStops s m → (∀ k < n, (walked s m k).movesOn) → w = walked s m n →
    w.cur.toNat + 16 ≤ 2 ^ 32 → owned w.desc = true → 0 < w.takes → 2 ^ 32 < w.desc.w3.toNat + w.takes →
    exec (.wrNptxpd v) s = .next (stopped (.addrWrap w.desc.w3.toNat w.takes) w.copied)

/-- A locate scan that meets neither FTS nor an end-of-ring bit up to the top raises F_ADDR_WRAP and changes nothing else; a
cursor step past the top, at the first descriptor or after `n` visits, raises it with that descriptor sent and handed back,
and txCur in place (R48, R117, R123, R177, R203; what a step records: log 10; the bound on `n`: log 11). -/
def Obligations.KickStepPastTheTopRaisesAddrWrap : Prop :=
  ∀ (s : State) (v : Word), s.faulted = none → s.maccr.getLsbD 0 = true →
    (s.txCur.toNat % 16 = 0 →
      (∀ k, s.txCur.toNat + 16 * k + 16 ≤ 2 ^ 32 → locateSkips s (placeAt s s.txCur k)) →
      exec (.wrNptxpd v) s = .next (stopped (.addrWrap (2 ^ 32) 16) s)) ∧
    (∀ (m n : Nat) (w : Walk), n < 2 ^ 32 → locateStops s m → (∀ k < n, (walked s m k).movesOn) → w = walked s m n →
      w.copies → w.cur.toNat + 16 = 2 ^ 32 → endOfRing s w.desc = false →
      exec (.wrNptxpd v) s = .next (stopped (.addrWrap (2 ^ 32) 16) w.handedBack))

/-- A kick that completes stopped at a descriptor that is not owned, stored its address in txCur and set NO_NPTXBUF, so with
IER[6] set the line is high after it (R202). -/
def Obligations.CompletedKickStopsAtAnUnownedDescriptor : Prop :=
  ∀ (s t : State) (v : Word), s.maccr.getLsbD 0 = true → exec (.wrNptxpd v) s = .next t → t.faulted = none →
    t.isr.getLsbD 6 = true ∧ owned (descAt t t.txCur) = false ∧ (t.ier.getLsbD 6 = true → t.irqLevel = true)

/-- Every kick ends, under the default BUS (reads of addresses with no memory give 0), and one that raises no fault leaves
every register but R.ISR and txCur as it was (R125, R127). -/
def Obligations.EveryKickEnds : Prop :=
  ∀ (s : State) (v : Word), s.Inv → s.faulted = none → s.cfg.bus.fill = .zero →
    ∃ t, exec (.wrNptxpd v) s = .next t ∧
      t = { s with
            isr := t.isr, txCur := t.txCur, txOut := t.txOut, irqLevel := t.irqLevel, irqChanges := t.irqChanges
            diagTrace := t.diagTrace, mem := t.mem, faulted := t.faulted, response := .nothing }

/-- A kick changes memory only by handing descriptors back. The memory after it, whether it raised a model fault or not, is
that after some number of visits of owned descriptors, from the place its locate scan stopped at; and every byte
reads as before, but for the top byte of word 0 of those descriptors, which are 16-byte aligned: it may lose its OWN bit and
nothing else (R57, R117, R122, R127). -/
def Obligations.KickChangesOnlyOwnershipBits : Prop :=
  ∀ (s t : State) (v : Word), s.Inv → exec (.wrNptxpd v) s = .next t →
    ∃ m n, (n = 0 ∨ (s.maccr.getLsbD 0 = true ∧ locateStops s m)) ∧ (∀ k < n, (walked s m k).copies) ∧
      t.mem = (walked s m n).st.mem ∧
      ∀ a : Nat, busRead t a = busRead s a ∨
        ∃ k < n, a = (walked s m k).cur.toNat + 3 ∧ a % 16 = 3 ∧ busRead t a = busRead s a &&& 0x7F#8

/-! ### Receive -/

/-- CAN_RECEIVE answers the stored flag; it does not scan (R137). That it ends with irq_update on every state is the model's
reading of R172, where R137's pseudocode only returns the flag (log 13). -/
def Obligations.CanReceiveAnswersTheStoredFlag : Prop :=
  ∀ s : State, s.faulted = none → exec .hostCanReceive s = .next (ended (.canReceive s.rxEnabled) s)

/-- A delivery while rxEnabled is false is dropped: a diagnostic, no memory write, no cause bit, no rescan (R138, R147). -/
def Obligations.DeliveryWhileNotEnabledIsDropped : Prop :=
  ∀ (s : State) (f : List Byte), s.faulted = none → s.rxEnabled = false →
    exec (.hostDeliver f) s = .next (ended .nothing { s with diagTrace := s.diagTrace ++ [.rxNotEnabled] })

/-- The stream of a delivery: min(L + 4, MAXF) bytes, the frame's first bytes and then the CRC of the whole frame; it is
stamped too long exactly when L + 4 > MAXF, and broadcast exactly when L >= 6 and its first six bytes are 0xFF (R135,
R136). -/
def Obligations.StreamIsTheFrameAndItsTrailer : Prop :=
  ∀ (s : State) (f : List Byte),
    (rxStream s f).length = min (f.length + 4) (frameLimit s) ∧
    rxStream s f = f.take (frameLimit s - 4) ++ bytesOfWord (fcsWord s.cfg.fcs f) ∧
    (rxTooLong s f = true ↔ frameLimit s < f.length + 4) ∧
    (isBroadcast f = true ↔ 6 ≤ f.length ∧ ∀ k < 6, f.getD k 0#8 = 0xFF#8)

/-- One visit of a free descriptor, for every rest of a stream: min(rest, RBSR) bytes go to its buffer, its word 0 is
stamped, RPKT_BUF or RPKT_FIFO is set, and rxCur moves by the ring cursor rule (R139 to R142, R144). -/
def Obligations.RxVisitFillsOneDescriptor : Prop :=
  ∀ (s : State) (first bc ftl : Bool) (rest : List Byte) (d : Desc) (n : Nat) (final : Bool),
    n = min rest.length s.rbsr.toNat → final = decide (n = rest.length) →
    (n = 0 ∨ d.w3.toNat + n ≤ 2 ^ 32) → s.rxCur.toNat + 16 ≤ 2 ^ 32 →
    (endOfRing s d = true ∨ s.rxCur.toNat + 16 < 2 ^ 32) →
    rxVisit first bc ftl rest d s =
      .go (rest.drop n)
        { s with
          mem := withDesc s (busWriteBytes s.cfg.bus s.mem d.w3.toNat (rest.take n)) s.rxCur (stamped d n first final bc ftl)
          isr := s.isr ||| (if final then 0x1#32 else 0x2#32)
          rxCur := nextPlace s s.rxCur d s.rxBase }

/-- A frame that fits one free descriptor: frame and CRC go to its buffer, word 0 is stamped first and last, RPKT_BUF is set,
rxCur moves on, and the rescan from there, which stops `r` places on, reports whether that one is free (R138 to R142, R144,
R145, R148). -/
def Obligations.DeliveryFillsOneDescriptor : Prop :=
  ∀ (s : State) (f : List Byte) (d : Desc) (m : Memory) (c : Word) (r : Nat), s.faulted = none → s.rxEnabled = true →
    s.rxCur.toNat + 16 ≤ 2 ^ 32 → d = descAt s s.rxCur → owned d = true →
    (rxStream s f).length ≤ s.rbsr.toNat → d.w3.toNat + (rxStream s f).length ≤ 2 ^ 32 →
    canAdvance s s.rxCur d s.rxBase → c = nextPlace s s.rxCur d s.rxBase →
    m = withDesc s (busWriteBytes s.cfg.bus s.mem d.w3.toNat (rxStream s f)) s.rxCur
      (stamped d (rxStream s f).length true true (isBroadcast f) (rxTooLong s f)) →
    scanStops { s with mem := m } c r →
    exec (.hostDeliver f) s = .next (ended .nothing
      { s with
        mem := m
        isr := s.isr ||| 0x1#32
        rxCur := c
        diagTrace := s.diagTrace ++ (if rxTooLong s f then [.rxTooBig] else [])
        rxEnabled := owned (placeAt { s with mem := m } c r) })

/-- A frame that needs two free descriptors: RBSR bytes go to the first, stamped first only, the rest and the CRC to the
second, stamped last with the flags; both RPKT_FIFO and RPKT_BUF are set (R138 to R145, R148). -/
def Obligations.DeliverySpansTwoDescriptors : Prop :=
  ∀ (s : State) (f : List Byte) (d e : Desc) (m m' : Memory) (c c' : Word) (n r : Nat),
    s.faulted = none → s.rxEnabled = true →
    s.rxCur.toNat + 16 ≤ 2 ^ 32 → d = descAt s s.rxCur → owned d = true → n = s.rbsr.toNat → 0 < n →
    n < (rxStream s f).length → (rxStream s f).length ≤ 2 * n → d.w3.toNat + n ≤ 2 ^ 32 →
    canAdvance s s.rxCur d s.rxBase → c = nextPlace s s.rxCur d s.rxBase →
    m = withDesc s (busWriteBytes s.cfg.bus s.mem d.w3.toNat ((rxStream s f).take n)) s.rxCur
      (stamped d n true false (isBroadcast f) (rxTooLong s f)) →
    e = descAt { s with mem := m } c → owned e = true → e.w3.toNat + ((rxStream s f).length - n) ≤ 2 ^ 32 →
    canAdvance s c e s.rxBase → c' = nextPlace s c e s.rxBase →
    m' = withDesc s (busWriteBytes s.cfg.bus m e.w3.toNat ((rxStream s f).drop n)) c
      (stamped e ((rxStream s f).length - n) false true (isBroadcast f) (rxTooLong s f)) →
    scanStops { s with mem := m' } c' r →
    exec (.hostDeliver f) s = .next (ended .nothing
      { s with
        mem := m'
        isr := s.isr ||| 0x3#32
        rxCur := c'
        diagTrace := s.diagTrace ++ (if rxTooLong s f then [.rxTooBig] else [])
        rxEnabled := owned (placeAt { s with mem := m' } c' r) })

/-- A delivery that meets a descriptor that is not free first drops the whole frame: nothing is written, NO_RXBUF is set,
rxCur stays, and the rescan from rxCur, which stops `r` places on, reports whether that descriptor is free (R138, R143, R145,
R148). -/
def Obligations.DeliveryWithoutFreeDescriptorIsDropped : Prop :=
  ∀ (s : State) (f : List Byte) (r : Nat), s.faulted = none → s.rxEnabled = true →
    owned (descAt s s.rxCur) = false → scanStops s s.rxCur r →
    exec (.hostDeliver f) s = .next (ended .nothing
      { s with
        isr := s.isr ||| 0x4#32
        diagTrace := s.diagTrace ++ (if rxTooLong s f then [.rxTooBig] else []) ++ [.rxNoBuffer]
        rxEnabled := owned (placeAt s s.rxCur r) })

/-- Every delivery ends, under the default BUS, and one that raises no fault leaves a frame sent, a ring base and every
register but R.ISR, rxCur and rxEnabled as they were (R130, R146). -/
def Obligations.EveryDeliveryEnds : Prop :=
  ∀ (s : State) (f : List Byte), s.Inv → s.faulted = none → s.cfg.bus.fill = .zero →
    ∃ t, exec (.hostDeliver f) s = .next t ∧
      t = { s with
            isr := t.isr, rxCur := t.rxCur, rxEnabled := t.rxEnabled, irqLevel := t.irqLevel, irqChanges := t.irqChanges
            diagTrace := t.diagTrace, mem := t.mem, faulted := t.faulted, response := .nothing }

/-- A delivery of any length: it fills `n` descriptors in order, until the stream is stored or one it meets is not free; the
rest of the stream is then dropped with NO_RXBUF, and the rescan from the new rxCur, which stops `r` places on, reports
whether that one is free (R135, R138 to R145, R148). The bound on `n` is the model's count of visits, which no delivery uses
up under the default BUS (log 11). -/
def Obligations.DeliveryFillsDescriptorsInOrder : Prop :=
  ∀ (s : State) (f : List Byte) (n r : Nat), s.faulted = none → s.rxEnabled = true → n ≤ 2 ^ 32 →
    (∀ k < n, fillsAndMovesOn s f k) → stopsAfter s f n → scanStops (delivered s f n) (delivered s f n).rxCur r →
    exec (.hostDeliver f) s = .next (ended .nothing
      { loopEnd s f n with rxEnabled := owned (placeAt (delivered s f n) (delivered s f n).rxCur r) })

/-- The memory after a delivery, whether it raised a model fault or not, is that after some number of descriptors it found
free and filled with bytes that were left; and every byte reads as before but word 0 of those descriptors and their buffers'
bytes (R46, R57, R140, R141). -/
def Obligations.DeliveryChangesOnlyDescriptorsAndBuffers : Prop :=
  ∀ (s t : State) (f : List Byte), s.Inv → exec (.hostDeliver f) s = .next t →
    ∃ n, (∀ k < n, bytesLeft s f k ∧ owned (metDesc s f k) = true) ∧ t.mem = (delivered s f n).mem ∧
      ∀ x : Nat, (∀ k < n,
          (x < (delivered s f k).rxCur.toNat ∨ (delivered s f k).rxCur.toNat + 4 ≤ x) ∧
          (x < (metDesc s f k).w3.toNat ∨ (metDesc s f k).w3.toNat + (chunk s f k).length ≤ x)) →
        busRead t x = busRead s x

/-- When a delivery raises F_ADDR_WRAP after `n` descriptors: at a buffer that passes the top, before any byte of it is
written; at a cursor step past the top, with the descriptor written and its cause set but rxCur in place; and at a rescan
that meets neither a free nor an end-of-ring descriptor up to the top (R48, R138, R145, R177; what a step records: log 10; the
bound on `n`: log 11). -/
def Obligations.DeliveryPastTheTopRaisesAddrWrap : Prop :=
  ∀ (s u : State) (f : List Byte) (d : Desc) (n : Nat), s.faulted = none → s.rxEnabled = true → n < 2 ^ 32 →
    (∀ k < n, fillsAndMovesOn s f k) → u = delivered s f n → d = metDesc s f n →
    (bytesLeft s f n → u.rxCur.toNat + 16 ≤ 2 ^ 32 → owned d = true → chunk s f n ≠ [] →
      2 ^ 32 < d.w3.toNat + (chunk s f n).length →
      exec (.hostDeliver f) s = .next (stopped (.addrWrap d.w3.toNat (chunk s f n).length) u)) ∧
    (bytesLeft s f n → u.rxCur.toNat + 16 = 2 ^ 32 → owned d = true → d.w3.toNat + (chunk s f n).length ≤ 2 ^ 32 →
      endOfRing s d = false →
      exec (.hostDeliver f) s = .next (stopped (.addrWrap (2 ^ 32) 16) { filled s f n u with rxCur := u.rxCur })) ∧
    (stopsAfter s f n → u.rxCur.toNat % 16 = 0 →
      (∀ k, u.rxCur.toNat + 16 * k + 16 ≤ 2 ^ 32 →
        owned (placeAt u u.rxCur k) = false ∧ endOfRing s (placeAt u u.rxCur k) = false) →
      exec (.hostDeliver f) s = .next (stopped (.addrWrap (2 ^ 32) 16) (loopEnd s f n)))

/-! ### Memory -/

/-- The descriptor codec is little-endian, and a descriptor written and read back is the same one. Byte `4i + j` of sixteen
bytes read is bits [8j+7:8j] of word `i`; written, it is that byte of memory, where the sixteen bytes are memory (R45, R46,
R59). -/
def Obligations.DescriptorRoundTrip : Prop :=
  (∀ (s : State) (a : Word), a.toNat + 16 ≤ 2 ^ 32 →
    ∃ d, readDesc a s = .go d s ∧
      ∀ i < 4, ∀ j < 4, byteOf ((wordsOf d).getD i 0#32) j = busRead s (a.toNat + 4 * i + j)) ∧
  (∀ (s : State) (a : Word) (d : Desc), Memory.wf s.mem = true → a.toNat % 16 = 0 →
    (∀ k < 16, hasMemory s.cfg.bus (a.toNat + k) = true) →
    ∃ t, writeDesc a d s = .go () t ∧ readDesc a t = .go d t ∧
      ∀ i < 4, ∀ j < 4, busRead t (a.toNat + 4 * i + j) = byteOf ((wordsOf d).getD i 0#32) j)

/-- Bytes read through the bus are those at a, a + 1, … in order. Bytes written read back where it has memory, are dropped
where it has none, and every other address reads as before (R41, R42). -/
def Obligations.BusWriteReadsBackAndLeavesTheRest : Prop :=
  (∀ (s : State) (a n : Nat), (busReadBytes s a n).length = n ∧
    ∀ k < n, (busReadBytes s a n)[k]? = some (busRead s (a + k))) ∧
  (∀ (s t : State) (a : Nat) (bytes : List Byte), Memory.wf s.mem = true → memWrite a bytes s = .go () t →
    (∀ x, x < a ∨ a + bytes.length ≤ x → busRead t x = busRead s x) ∧
    (∀ k (h : k < bytes.length), hasMemory s.cfg.bus (a + k) = true → busRead t (a + k) = bytes[k]) ∧
    (∀ k, hasMemory s.cfg.bus (a + k) = false → busRead t (a + k) = fillByte s.cfg.bus.fill (a + k)) ∧
    t = { s with mem := t.mem })

/-- A DMA range with n > 0 and a + n > 2^32, and a cursor step with cur + 16 >= 2^32, raise F_ADDR_WRAP before any part of
it; every other range and step goes on (R48; what a step records: log 10). -/
def Obligations.RangePastTheTopRaisesAddrWrap : Prop :=
  ∀ s : State,
    (∀ a n : Nat, 0 < n → 2 ^ 32 < a + n → memRead a n s = .raised { s with faulted := some (.addrWrap a n) }) ∧
    (∀ a n : Nat, n = 0 ∨ a + n ≤ 2 ^ 32 → memRead a n s = .go (busReadBytes s a n) s) ∧
    (∀ (a : Nat) (bs : List Byte), bs ≠ [] → 2 ^ 32 < a + bs.length →
      memWrite a bs s = .raised { s with faulted := some (.addrWrap a bs.length) }) ∧
    (∀ (a : Nat) (bs : List Byte), bs = [] ∨ a + bs.length ≤ 2 ^ 32 →
      memWrite a bs s = .go () { s with mem := busWriteBytes s.cfg.bus s.mem a bs }) ∧
    (∀ cur : Word, 2 ^ 32 ≤ cur.toNat + 16 →
      stepUp cur s = .raised { s with faulted := some (.addrWrap (cur.toNat + 16) 16) }) ∧
    (∀ cur : Word, cur.toNat + 16 < 2 ^ 32 → stepUp cur s = .go (BitVec.ofNat 32 (cur.toNat + 16)) s)

/-- The ring cursor rule: the base after a descriptor with the instance's own end-of-ring bit, else the next place; the
other variant's bit is not tested (R47, R78). -/
def Obligations.RingCursorFollowsTheVariant : Prop :=
  ∀ (s : State) (cur base : Word) (d : Desc), cur.toNat + 16 < 2 ^ 32 →
    (s.cfg.variant = .aspeed → advance cur d base s = .go (if d.w0.getLsbD 30 then base else cur + 16#32) s) ∧
    (s.cfg.variant = .faraday → advance cur d base s = .go (if d.w0.getLsbD 15 then base else cur + 16#32) s)

/-- Canonical memories that read alike at every address are equal data. -/
def Obligations.CanonicalMemoriesReadingAlikeAreEqual : Prop :=
  ∀ m m' : Memory, Memory.wf m = true → Memory.wf m' = true →
    (∀ a, Memory.read m a = Memory.read m' a) → m = m'

/-! ### The invariant -/

/-- Every instance's power-on state, and so the reset state, meets the invariant. -/
def Obligations.PowerOnMeetsTheInvariant : Prop := (∀ p : Params, (State.powerOn p).Inv) ∧ State.reset.Inv

/-- Every step keeps the invariant, from every state that meets it (R17, R18, R30, R32, R130, R151). -/
def Obligations.StepKeepsTheInvariant : Prop := ∀ s t : State, s.Inv → step s = .next t → t.Inv
end

