-- ==== Sys2Proof/Laws/Codec.lean ====
section
/-! SUPPORT. What each field of a composed word is: the operation word (R60) and the words of a descriptor (R45, R46). -/

namespace Sys2Proof

/-! ### The operation word -/

/-- Every bit of an access word (R60). -/
theorem mmioWord_getLsbD (sz : BitVec 2) (dir : Bool) (off : Offset) (k : Nat) :
    (mmioWord sz dir off).getLsbD k =
      if k < 13 then off.getLsbD k else if k < 14 then dir else if k < 16 then sz.getLsbD (k - 14) else false := by
  change (0#16 ++ sz ++ BitVec.ofBool dir ++ off).getLsbD k = _
  simp only [BitVec.getLsbD_append]
  split
  · rfl
  · by_cases h : k < 14
    · simp [h, show k - 13 = 0 by omega]
    · by_cases h' : k < 16
      · simp [h, h', show ¬ k - 13 < 1 by omega, show k - 13 - 1 = k - 14 by omega, show k - 14 < 2 by omega]
      · simp [h, h', show ¬ k - 13 < 1 by omega, show ¬ k - 13 - 1 < 2 by omega]

/-- Every bit of a host event word (R60). -/
theorem hostWord_getLsbD (ev : BitVec 4) (k : Nat) :
    (hostWord ev).getLsbD k = if k < 4 then ev.getLsbD k else decide (k = 31) := by
  change (1#1 ++ 0#27 ++ ev).getLsbD k = _
  simp only [BitVec.getLsbD_append]
  split
  · rfl
  · by_cases h : k - 4 < 27
    · simp [h, show k ≠ 31 by omega]
    · by_cases h' : k = 31
      · simp [h']
      · simp [h, h', show k - 4 - 27 ≠ 0 by omega]

@[simp] theorem wordClass_mmioWord (sz : BitVec 2) (dir : Bool) (off : Offset) :
    wordClass (mmioWord sz dir off) = false := by
  rw [wordClass, mmioWord_getLsbD]
  rfl

@[simp] theorem mmioZeros_mmioWord (sz : BitVec 2) (dir : Bool) (off : Offset) :
    mmioZeros (mmioWord sz dir off) = 0 := by
  ext i hi
  simp [mmioZeros, mmioWord_getLsbD, show ¬ 16 + i < 13 by omega, show ¬ 16 + i < 14 by omega]

@[simp] theorem wordSize_mmioWord (sz : BitVec 2) (dir : Bool) (off : Offset) :
    wordSize (mmioWord sz dir off) = sz := by
  ext i hi
  simp [wordSize, mmioWord_getLsbD, show ¬ 14 + i < 13 by omega, show 14 + i < 16 by omega,
    BitVec.getLsbD_eq_getElem hi]

@[simp] theorem wordDir_mmioWord (sz : BitVec 2) (dir : Bool) (off : Offset) :
    wordDir (mmioWord sz dir off) = dir := by
  rw [wordDir, mmioWord_getLsbD]
  rfl

@[simp] theorem wordOff_mmioWord (sz : BitVec 2) (dir : Bool) (off : Offset) :
    wordOff (mmioWord sz dir off) = off := by
  ext i hi
  simp [wordOff, mmioWord_getLsbD, hi]

@[simp] theorem wordClass_hostWord (ev : BitVec 4) : wordClass (hostWord ev) = true := by
  simp [wordClass, hostWord_getLsbD]

@[simp] theorem hostZeros_hostWord (ev : BitVec 4) : hostZeros (hostWord ev) = 0 := by
  ext i hi
  simp [hostZeros, hostWord_getLsbD, show ¬ 4 + i = 31 by omega]

@[simp] theorem wordEvent_hostWord (ev : BitVec 4) : wordEvent (hostWord ev) = ev := by
  ext i hi
  simp [wordEvent, hostWord_getLsbD, hi]

/-- A word that is an access is its fields (R60). -/
theorem eq_mmioWord (w : Word) (hc : wordClass w = false) (hz : mmioZeros w = 0) :
    w = mmioWord (wordSize w) (wordDir w) (wordOff w) := by
  apply BitVec.eq_of_getLsbD_eq
  intro i hi
  rw [mmioWord_getLsbD]
  split
  · simp [wordOff, *]
  · split
    · simp [wordDir, show i = 13 by omega]
    · split
      · simp [wordSize, show i - 14 < 2 by omega, show 14 + (i - 14) = i by omega]
      · by_cases h31 : i = 31
        · simpa [wordClass, h31] using hc
        · have := congrArg (·.getLsbD (i - 16)) hz
          simpa [mmioZeros, show i - 16 < 15 by omega, show 16 + (i - 16) = i by omega] using this

/-- A word that is a host event is its number (R60). -/
theorem eq_hostWord (w : Word) (hc : wordClass w = true) (hz : hostZeros w = 0) : w = hostWord (wordEvent w) := by
  apply BitVec.eq_of_getLsbD_eq
  intro i hi
  rw [hostWord_getLsbD]
  split
  · simp [wordEvent, *]
  · by_cases h31 : i = 31
    · simpa [wordClass, h31] using hc
    · have := congrArg (·.getLsbD (i - 4)) hz
      simpa [hostZeros, h31, show i - 4 < 27 by omega, show 4 + (i - 4) = i by omega] using this

/-- The bits of an access word under a mask that fixes class, reserved bits, size and direction. -/
theorem mmioWord_and (sz : BitVec 2) (dir : Bool) (off m : Offset) :
    mmioWord sz dir off &&& (0x7FFFF#19 ++ m : BitVec 32) = mmioWord sz dir (off &&& m) := by
  have h : (0#16 ++ sz ++ BitVec.ofBool dir : BitVec 19) &&& 0x7FFFF#19 = 0#16 ++ sz ++ BitVec.ofBool dir :=
    BitVec.and_allOnes
  exact (BitVec.and_append ..).trans (by rw [h]; rfl)

/-- OFF[1:0], the bits a valid access has 0 (R64). -/
theorem and_three (off : Offset) : off &&& 3#13 = (Machine.offLow off).setWidth 13 := by
  apply BitVec.eq_of_toNat_eq
  have h : off.toNat &&& 3 = off.toNat % 4 := Nat.and_two_pow_sub_one_eq_mod off.toNat 2
  simp [Machine.offLow, h]
  omega

end Sys2Proof

namespace Sys2Proof.Machine

/-! ### Words and descriptors in memory order -/

@[simp] theorem wordOfBytes_bytesOfWord (w : Word) :
    wordOfBytes (w.extractLsb' 0 8) (w.extractLsb' 8 8) (w.extractLsb' 16 8) (w.extractLsb' 24 8) = w := by
  apply BitVec.eq_of_getLsbD_eq
  intro i hi
  simp only [wordOfBytes, BitVec.getLsbD_append, BitVec.getLsbD_extractLsb']
  split
  · simp [*]
  · split
    · simp [show i - 8 < 8 by omega, show 8 + (i - 8) = i by omega]
    · split
      · simp [show i - 8 - 8 < 8 by omega, show 16 + (i - 8 - 8) = i by omega]
      · simp [show i - 8 - 8 - 8 < 8 by omega, show 24 + (i - 8 - 8 - 8) = i by omega]

/-- Byte `j` of a word in memory order is its bits [8j+7:8j] (R46). -/
theorem bytesOfWord_getElem? (w : Word) (j : Nat) (hj : j < 4) :
    (bytesOfWord w)[j]? = some ((w >>> (8 * j)).setWidth 8) := by
  have h : ∀ k, w.extractLsb' k 8 = (w >>> k).setWidth 8 := fun k => by
    apply BitVec.eq_of_toNat_eq
    simp
  match j, hj with
  | 0, _ => simp [bytesOfWord, h]
  | 1, _ => simp [bytesOfWord, h]
  | 2, _ => simp [bytesOfWord, h]
  | 3, _ => simp [bytesOfWord, h]

/-- Encoding a descriptor and decoding it gives it back (R45, R46). -/
@[simp] theorem descOfBytes_bytesOfDesc (d : Desc) : descOfBytes (bytesOfDesc d) = d := by
  simp [descOfBytes, bytesOfDesc, bytesOfWord]

end Sys2Proof.Machine
end

