-- ==== Sys2Proof/Laws/Memory.lean ====
section
/-! SUPPORT. Guest memory: a read after a write, the canonical form kept by every memory operation, and equal reads make
equal memories. -/

namespace Sys2Proof.Machine

/-- Canonical from a higher address is canonical from a lower one. -/
theorem Memory.wfFrom_mono {m : Memory} {lo lo' : Nat} (hle : lo ≤ lo') (h : Memory.wfFrom lo' m = true) :
    Memory.wfFrom lo m = true := by
  cases m with
  | nil => rfl
  | cons c t =>
    simp only [Memory.wfFrom, Bool.and_eq_true, decide_eq_true_eq] at h ⊢
    exact ⟨⟨⟨hle.trans h.1.1.1, h.1.1.2⟩, h.1.2⟩, h.2⟩

/-- A canonical memory reads the unlisted byte below its first address. -/
theorem Memory.read_below {m : Memory} {lo a : Nat} (h : Memory.wfFrom lo m = true) (ha : a < lo) :
    Memory.read m a = unlistedByte := by
  induction m generalizing lo with
  | nil => rfl
  | cons c t ih =>
    simp only [Memory.wfFrom, Bool.and_eq_true, decide_eq_true_eq] at h
    have hne : c.1 ≠ a := by omega
    simp only [Memory.read, if_neg hne]
    exact ih h.2 (by omega)

/-- A write keeps the canonical form. -/
theorem Memory.write_wfFrom {m : Memory} {lo a : Nat} (b : Byte) (h : Memory.wfFrom lo m = true) (hlo : lo ≤ a)
    (ha : a < addrSpace) : Memory.wfFrom lo (Memory.write m a b) = true := by
  induction m generalizing lo with
  | nil =>
    simp only [Memory.write]
    split
    · rfl
    · simp_all [Memory.wfFrom]
  | cons c t ih =>
    simp only [Memory.wfFrom, Bool.and_eq_true, decide_eq_true_eq] at h
    simp only [Memory.write]
    split
    · split
      · simp only [Memory.wfFrom, Bool.and_eq_true, decide_eq_true_eq]
        exact h
      · simp only [Memory.wfFrom, Bool.and_eq_true, decide_eq_true_eq, bne_iff_ne]
        exact ⟨⟨⟨hlo, ha⟩, ‹_›⟩, ⟨⟨by omega, h.1.1.2⟩, by simpa using h.1.2⟩, h.2⟩
    · split
      · split
        · exact Memory.wfFrom_mono (by omega) h.2
        · simp only [Memory.wfFrom, Bool.and_eq_true, decide_eq_true_eq, bne_iff_ne]
          refine ⟨⟨⟨hlo, ha⟩, ‹_›⟩, ?_⟩
          have hk : c.1 = a := by omega
          exact hk ▸ h.2
      · simp only [Memory.wfFrom, Bool.and_eq_true, decide_eq_true_eq]
        exact ⟨h.1, ih h.2 (by omega)⟩

/-- Every memory operation of the model is built from this one: it keeps the canonical form. -/
theorem Memory.write_wf {m : Memory} {a : Nat} (b : Byte) (h : Memory.wf m = true) (ha : a < addrSpace) :
    Memory.wf (Memory.write m a b) = true :=
  Memory.write_wfFrom b h (Nat.zero_le a) ha

/-- A read after a write to the same address gives the byte written. -/
theorem Memory.read_write_same {m : Memory} {lo a : Nat} (b : Byte) (h : Memory.wfFrom lo m = true) :
    Memory.read (Memory.write m a b) a = b := by
  induction m generalizing lo with
  | nil =>
    simp only [Memory.write]
    split <;> simp_all [Memory.read]
  | cons c t ih =>
    simp only [Memory.wfFrom, Bool.and_eq_true, decide_eq_true_eq] at h
    simp only [Memory.write]
    split
    · split
      · have hne : c.1 ≠ a := by omega
        simp only [Memory.read, if_neg hne]
        rw [Memory.read_below h.2 (by omega)]
        exact (‹b = unlistedByte›).symm
      · simp [Memory.read]
    · split
      · split
        · rw [Memory.read_below h.2 (by omega)]
          exact (‹b = unlistedByte›).symm
        · simp [Memory.read]
      · simp only [Memory.read, if_neg (by omega : ¬ c.1 = a)]
        exact ih h.2

/-- A write leaves every other address alone. -/
theorem Memory.read_write_other {m : Memory} {lo a a' : Nat} (b : Byte) (h : Memory.wfFrom lo m = true) (hne : a' ≠ a) :
    Memory.read (Memory.write m a b) a' = Memory.read m a' := by
  induction m generalizing lo with
  | nil =>
    simp only [Memory.write]
    split
    · rfl
    · simp [Memory.read, Ne.symm hne]
  | cons c t ih =>
    simp only [Memory.wfFrom, Bool.and_eq_true, decide_eq_true_eq] at h
    simp only [Memory.write]
    split
    · split
      · rfl
      · simp [Memory.read, Ne.symm hne]
    · split
      · have hk : c.1 ≠ a' := by omega
        split
        · simp [Memory.read, hk]
        · simp [Memory.read, hk, Ne.symm hne]
      · simp only [Memory.read]
        split
        · rfl
        · exact ih h.2

/-- One byte written through the bus keeps the canonical form. -/
theorem busWriteByte_wf {m : Memory} (bus : Bus) (a : Nat) (v : Byte) (h : Memory.wf m = true) :
    Memory.wf (busWriteByte bus m a v) = true := by
  unfold busWriteByte
  split
  · rename_i hm
    simp only [hasMemory, Bool.and_eq_true, decide_eq_true_eq] at hm
    exact Memory.write_wf v h hm.1
  · exact h

/-- Bytes written through the bus keep the canonical form: DMA writes and guest stores are built from this. -/
theorem busWriteBytes_wf {m : Memory} (bus : Bus) (a : Nat) (vs : List Byte) (h : Memory.wf m = true) :
    Memory.wf (busWriteBytes bus m a vs) = true := by
  induction vs generalizing m a with
  | nil => exact h
  | cons v vs ih => exact ih (a + 1) (busWriteByte_wf bus a v h)

/-- A guest store keeps the canonical form. -/
theorem guestStore_wf (addr : Word) (bytes : List Byte) (s : State) (h : Memory.wf s.mem = true) :
    Memory.wf (guestStore addr bytes s).mem = true :=
  busWriteBytes_wf s.cfg.bus addr.toNat bytes h

/-- The memory after power-on has the canonical form. -/
theorem powerOn_mem_wf (p : Params) : Memory.wf (State.powerOn p).mem = true := rfl

/-- The memory after reset has the canonical form. -/
theorem reset_mem_wf : Memory.wf State.reset.mem = true := rfl

/-- A bus write of one byte leaves every other address alone. -/
theorem read_busWriteByte_other {m : Memory} (bus : Bus) (a a' : Nat) (v : Byte) (h : Memory.wf m = true)
    (hne : a' ≠ a) : Memory.read (busWriteByte bus m a v) a' = Memory.read m a' := by
  unfold busWriteByte
  split
  · exact Memory.read_write_other v h hne
  · rfl

/-- Bytes written through the bus leave every address outside their range alone. -/
theorem read_busWriteBytes_outside {m : Memory} (bus : Bus) (a a' : Nat) (vs : List Byte) (h : Memory.wf m = true)
    (hout : a' < a ∨ a + vs.length ≤ a') : Memory.read (busWriteBytes bus m a vs) a' = Memory.read m a' := by
  induction vs generalizing m a with
  | nil => rfl
  | cons v vs ih =>
    simp only [List.length_cons] at hout
    rw [busWriteBytes, ih (a + 1) (busWriteByte_wf bus a v h) (by omega)]
    exact read_busWriteByte_other bus a a' v h (by omega)

/-- Where the bus has memory, a byte written through it reads back. -/
theorem read_busWriteBytes_inside {m : Memory} (bus : Bus) (a i : Nat) (vs : List Byte) (h : Memory.wf m = true)
    (hi : i < vs.length) (hm : hasMemory bus (a + i) = true) :
    Memory.read (busWriteBytes bus m a vs) (a + i) = vs[i] := by
  induction vs generalizing m a i with
  | nil => simp at hi
  | cons v vs ih =>
    rw [busWriteBytes]
    cases i with
    | zero =>
      simp only [Nat.add_zero] at hm ⊢
      rw [read_busWriteBytes_outside bus (a + 1) a vs (busWriteByte_wf bus a v h) (by omega)]
      simp only [busWriteByte, hm, if_true]
      exact Memory.read_write_same v h
    | succ i =>
      have h1 : a + (i + 1) = a + 1 + i := by omega
      rw [h1] at hm ⊢
      simpa using ih (a + 1) i (busWriteByte_wf bus a v h) (by simpa using hi) hm

/-- Reading bytes gives as many as were asked for. -/
@[simp] theorem busReadBytes_length (s : State) (a n : Nat) : (busReadBytes s a n).length = n := by
  induction n generalizing a with
  | zero => rfl
  | succ n ih => simp [busReadBytes, ih]

/-- Entry `k` of the bytes read at `a` is the byte at `a + k` (R41). -/
theorem busReadBytes_getElem? (s : State) (a n k : Nat) (hk : k < n) :
    (busReadBytes s a n)[k]? = some (busRead s (a + k)) := by
  induction n generalizing a k with
  | zero => omega
  | succ n ih =>
    cases k with
    | zero => rfl
    | succ k =>
      rw [busReadBytes, List.getElem?_cons_succ, ih (a + 1) k (by omega), show a + 1 + k = a + (k + 1) by omega]

end Sys2Proof.Machine
end

