-- ==== Sys2Proof/Laws/State.lean ====
section
/-! SUPPORT. One lemma for each field of the state and each named update, true by rfl: no later proof unfolds a record
update. -/

namespace Sys2Proof.Machine

@[simp] theorem cause_cfg (b : Word) (s : State) : (cause b s).cfg = s.cfg := rfl
@[simp] theorem cause_isr (b : Word) (s : State) : (cause b s).isr = s.isr ||| b := rfl
@[simp] theorem cause_ier (b : Word) (s : State) : (cause b s).ier = s.ier := rfl
@[simp] theorem cause_mac (b : Word) (s : State) : (cause b s).mac = s.mac := rfl
@[simp] theorem cause_rxBase (b : Word) (s : State) : (cause b s).rxBase = s.rxBase := rfl
@[simp] theorem cause_txBase (b : Word) (s : State) : (cause b s).txBase = s.txBase := rfl
@[simp] theorem cause_rbsr (b : Word) (s : State) : (cause b s).rbsr = s.rbsr := rfl
@[simp] theorem cause_aptc (b : Word) (s : State) : (cause b s).aptc = s.aptc := rfl
@[simp] theorem cause_maccr (b : Word) (s : State) : (cause b s).maccr = s.maccr := rfl
@[simp] theorem cause_phycr (b : Word) (s : State) : (cause b s).phycr = s.phycr := rfl
@[simp] theorem cause_phydata (b : Word) (s : State) : (cause b s).phydata = s.phydata := rfl
@[simp] theorem cause_txCur (b : Word) (s : State) : (cause b s).txCur = s.txCur := rfl
@[simp] theorem cause_rxCur (b : Word) (s : State) : (cause b s).rxCur = s.rxCur := rfl
@[simp] theorem cause_rxEnabled (b : Word) (s : State) : (cause b s).rxEnabled = s.rxEnabled := rfl
@[simp] theorem cause_irqLevel (b : Word) (s : State) : (cause b s).irqLevel = s.irqLevel := rfl
@[simp] theorem cause_phyControl (b : Word) (s : State) : (cause b s).phyControl = s.phyControl := rfl
@[simp] theorem cause_phyStatus (b : Word) (s : State) : (cause b s).phyStatus = s.phyStatus := rfl
@[simp] theorem cause_phyAdvertise (b : Word) (s : State) : (cause b s).phyAdvertise = s.phyAdvertise := rfl
@[simp] theorem cause_phyInt (b : Word) (s : State) : (cause b s).phyInt = s.phyInt := rfl
@[simp] theorem cause_phyIntMask (b : Word) (s : State) : (cause b s).phyIntMask = s.phyIntMask := rfl
@[simp] theorem cause_faulted (b : Word) (s : State) : (cause b s).faulted = s.faulted := rfl
@[simp] theorem cause_linkUp (b : Word) (s : State) : (cause b s).linkUp = s.linkUp := rfl
@[simp] theorem cause_txOut (b : Word) (s : State) : (cause b s).txOut = s.txOut := rfl
@[simp] theorem cause_diagTrace (b : Word) (s : State) : (cause b s).diagTrace = s.diagTrace := rfl
@[simp] theorem cause_irqChanges (b : Word) (s : State) : (cause b s).irqChanges = s.irqChanges := rfl
@[simp] theorem cause_mem (b : Word) (s : State) : (cause b s).mem = s.mem := rfl
@[simp] theorem cause_pending (b : Word) (s : State) : (cause b s).pending = s.pending := rfl
@[simp] theorem cause_response (b : Word) (s : State) : (cause b s).response = s.response := rfl

@[simp] theorem diag_cfg (c : Diag) (s : State) : (diag c s).cfg = s.cfg := rfl
@[simp] theorem diag_isr (c : Diag) (s : State) : (diag c s).isr = s.isr := rfl
@[simp] theorem diag_ier (c : Diag) (s : State) : (diag c s).ier = s.ier := rfl
@[simp] theorem diag_mac (c : Diag) (s : State) : (diag c s).mac = s.mac := rfl
@[simp] theorem diag_rxBase (c : Diag) (s : State) : (diag c s).rxBase = s.rxBase := rfl
@[simp] theorem diag_txBase (c : Diag) (s : State) : (diag c s).txBase = s.txBase := rfl
@[simp] theorem diag_rbsr (c : Diag) (s : State) : (diag c s).rbsr = s.rbsr := rfl
@[simp] theorem diag_aptc (c : Diag) (s : State) : (diag c s).aptc = s.aptc := rfl
@[simp] theorem diag_maccr (c : Diag) (s : State) : (diag c s).maccr = s.maccr := rfl
@[simp] theorem diag_phycr (c : Diag) (s : State) : (diag c s).phycr = s.phycr := rfl
@[simp] theorem diag_phydata (c : Diag) (s : State) : (diag c s).phydata = s.phydata := rfl
@[simp] theorem diag_txCur (c : Diag) (s : State) : (diag c s).txCur = s.txCur := rfl
@[simp] theorem diag_rxCur (c : Diag) (s : State) : (diag c s).rxCur = s.rxCur := rfl
@[simp] theorem diag_rxEnabled (c : Diag) (s : State) : (diag c s).rxEnabled = s.rxEnabled := rfl
@[simp] theorem diag_irqLevel (c : Diag) (s : State) : (diag c s).irqLevel = s.irqLevel := rfl
@[simp] theorem diag_phyControl (c : Diag) (s : State) : (diag c s).phyControl = s.phyControl := rfl
@[simp] theorem diag_phyStatus (c : Diag) (s : State) : (diag c s).phyStatus = s.phyStatus := rfl
@[simp] theorem diag_phyAdvertise (c : Diag) (s : State) : (diag c s).phyAdvertise = s.phyAdvertise := rfl
@[simp] theorem diag_phyInt (c : Diag) (s : State) : (diag c s).phyInt = s.phyInt := rfl
@[simp] theorem diag_phyIntMask (c : Diag) (s : State) : (diag c s).phyIntMask = s.phyIntMask := rfl
@[simp] theorem diag_faulted (c : Diag) (s : State) : (diag c s).faulted = s.faulted := rfl
@[simp] theorem diag_linkUp (c : Diag) (s : State) : (diag c s).linkUp = s.linkUp := rfl
@[simp] theorem diag_txOut (c : Diag) (s : State) : (diag c s).txOut = s.txOut := rfl
@[simp] theorem diag_diagTrace (c : Diag) (s : State) : (diag c s).diagTrace = s.diagTrace ++ [c] := rfl
@[simp] theorem diag_irqChanges (c : Diag) (s : State) : (diag c s).irqChanges = s.irqChanges := rfl
@[simp] theorem diag_mem (c : Diag) (s : State) : (diag c s).mem = s.mem := rfl
@[simp] theorem diag_pending (c : Diag) (s : State) : (diag c s).pending = s.pending := rfl
@[simp] theorem diag_response (c : Diag) (s : State) : (diag c s).response = s.response := rfl

@[simp] theorem send_cfg (f : List Byte) (s : State) : (send f s).cfg = s.cfg := rfl
@[simp] theorem send_isr (f : List Byte) (s : State) : (send f s).isr = s.isr := rfl
@[simp] theorem send_ier (f : List Byte) (s : State) : (send f s).ier = s.ier := rfl
@[simp] theorem send_mac (f : List Byte) (s : State) : (send f s).mac = s.mac := rfl
@[simp] theorem send_rxBase (f : List Byte) (s : State) : (send f s).rxBase = s.rxBase := rfl
@[simp] theorem send_txBase (f : List Byte) (s : State) : (send f s).txBase = s.txBase := rfl
@[simp] theorem send_rbsr (f : List Byte) (s : State) : (send f s).rbsr = s.rbsr := rfl
@[simp] theorem send_aptc (f : List Byte) (s : State) : (send f s).aptc = s.aptc := rfl
@[simp] theorem send_maccr (f : List Byte) (s : State) : (send f s).maccr = s.maccr := rfl
@[simp] theorem send_phycr (f : List Byte) (s : State) : (send f s).phycr = s.phycr := rfl
@[simp] theorem send_phydata (f : List Byte) (s : State) : (send f s).phydata = s.phydata := rfl
@[simp] theorem send_txCur (f : List Byte) (s : State) : (send f s).txCur = s.txCur := rfl
@[simp] theorem send_rxCur (f : List Byte) (s : State) : (send f s).rxCur = s.rxCur := rfl
@[simp] theorem send_rxEnabled (f : List Byte) (s : State) : (send f s).rxEnabled = s.rxEnabled := rfl
@[simp] theorem send_irqLevel (f : List Byte) (s : State) : (send f s).irqLevel = s.irqLevel := rfl
@[simp] theorem send_phyControl (f : List Byte) (s : State) : (send f s).phyControl = s.phyControl := rfl
@[simp] theorem send_phyStatus (f : List Byte) (s : State) : (send f s).phyStatus = s.phyStatus := rfl
@[simp] theorem send_phyAdvertise (f : List Byte) (s : State) : (send f s).phyAdvertise = s.phyAdvertise := rfl
@[simp] theorem send_phyInt (f : List Byte) (s : State) : (send f s).phyInt = s.phyInt := rfl
@[simp] theorem send_phyIntMask (f : List Byte) (s : State) : (send f s).phyIntMask = s.phyIntMask := rfl
@[simp] theorem send_faulted (f : List Byte) (s : State) : (send f s).faulted = s.faulted := rfl
@[simp] theorem send_linkUp (f : List Byte) (s : State) : (send f s).linkUp = s.linkUp := rfl
@[simp] theorem send_txOut (f : List Byte) (s : State) : (send f s).txOut = s.txOut ++ [f] := rfl
@[simp] theorem send_diagTrace (f : List Byte) (s : State) : (send f s).diagTrace = s.diagTrace := rfl
@[simp] theorem send_irqChanges (f : List Byte) (s : State) : (send f s).irqChanges = s.irqChanges := rfl
@[simp] theorem send_mem (f : List Byte) (s : State) : (send f s).mem = s.mem := rfl
@[simp] theorem send_pending (f : List Byte) (s : State) : (send f s).pending = s.pending := rfl
@[simp] theorem send_response (f : List Byte) (s : State) : (send f s).response = s.response := rfl

@[simp] theorem irqUpdate_cfg (s : State) : (irqUpdate s).cfg = s.cfg := rfl
@[simp] theorem irqUpdate_isr (s : State) : (irqUpdate s).isr = s.isr := rfl
@[simp] theorem irqUpdate_ier (s : State) : (irqUpdate s).ier = s.ier := rfl
@[simp] theorem irqUpdate_mac (s : State) : (irqUpdate s).mac = s.mac := rfl
@[simp] theorem irqUpdate_rxBase (s : State) : (irqUpdate s).rxBase = s.rxBase := rfl
@[simp] theorem irqUpdate_txBase (s : State) : (irqUpdate s).txBase = s.txBase := rfl
@[simp] theorem irqUpdate_rbsr (s : State) : (irqUpdate s).rbsr = s.rbsr := rfl
@[simp] theorem irqUpdate_aptc (s : State) : (irqUpdate s).aptc = s.aptc := rfl
@[simp] theorem irqUpdate_maccr (s : State) : (irqUpdate s).maccr = s.maccr := rfl
@[simp] theorem irqUpdate_phycr (s : State) : (irqUpdate s).phycr = s.phycr := rfl
@[simp] theorem irqUpdate_phydata (s : State) : (irqUpdate s).phydata = s.phydata := rfl
@[simp] theorem irqUpdate_txCur (s : State) : (irqUpdate s).txCur = s.txCur := rfl
@[simp] theorem irqUpdate_rxCur (s : State) : (irqUpdate s).rxCur = s.rxCur := rfl
@[simp] theorem irqUpdate_rxEnabled (s : State) : (irqUpdate s).rxEnabled = s.rxEnabled := rfl
@[simp] theorem irqUpdate_irqLevel (s : State) : (irqUpdate s).irqLevel = lineActive s := rfl
@[simp] theorem irqUpdate_phyControl (s : State) : (irqUpdate s).phyControl = s.phyControl := rfl
@[simp] theorem irqUpdate_phyStatus (s : State) : (irqUpdate s).phyStatus = s.phyStatus := rfl
@[simp] theorem irqUpdate_phyAdvertise (s : State) : (irqUpdate s).phyAdvertise = s.phyAdvertise := rfl
@[simp] theorem irqUpdate_phyInt (s : State) : (irqUpdate s).phyInt = s.phyInt := rfl
@[simp] theorem irqUpdate_phyIntMask (s : State) : (irqUpdate s).phyIntMask = s.phyIntMask := rfl
@[simp] theorem irqUpdate_faulted (s : State) : (irqUpdate s).faulted = s.faulted := rfl
@[simp] theorem irqUpdate_linkUp (s : State) : (irqUpdate s).linkUp = s.linkUp := rfl
@[simp] theorem irqUpdate_txOut (s : State) : (irqUpdate s).txOut = s.txOut := rfl
@[simp] theorem irqUpdate_diagTrace (s : State) : (irqUpdate s).diagTrace = s.diagTrace := rfl
@[simp] theorem irqUpdate_irqChanges (s : State) : (irqUpdate s).irqChanges = if lineActive s = s.irqLevel then s.irqChanges else s.irqChanges ++ [lineActive s] := rfl
@[simp] theorem irqUpdate_mem (s : State) : (irqUpdate s).mem = s.mem := rfl
@[simp] theorem irqUpdate_pending (s : State) : (irqUpdate s).pending = s.pending := rfl
@[simp] theorem irqUpdate_response (s : State) : (irqUpdate s).response = s.response := rfl

@[simp] theorem phyIrqEval_cfg (s : State) : (phyIrqEval s).cfg = s.cfg := rfl
@[simp] theorem phyIrqEval_isr (s : State) : (phyIrqEval s).isr = if phyPending s then s.isr ||| causePhystsChg else s.isr &&& ~~~causePhystsChg := rfl
@[simp] theorem phyIrqEval_ier (s : State) : (phyIrqEval s).ier = s.ier := rfl
@[simp] theorem phyIrqEval_mac (s : State) : (phyIrqEval s).mac = s.mac := rfl
@[simp] theorem phyIrqEval_rxBase (s : State) : (phyIrqEval s).rxBase = s.rxBase := rfl
@[simp] theorem phyIrqEval_txBase (s : State) : (phyIrqEval s).txBase = s.txBase := rfl
@[simp] theorem phyIrqEval_rbsr (s : State) : (phyIrqEval s).rbsr = s.rbsr := rfl
@[simp] theorem phyIrqEval_aptc (s : State) : (phyIrqEval s).aptc = s.aptc := rfl
@[simp] theorem phyIrqEval_maccr (s : State) : (phyIrqEval s).maccr = s.maccr := rfl
@[simp] theorem phyIrqEval_phycr (s : State) : (phyIrqEval s).phycr = s.phycr := rfl
@[simp] theorem phyIrqEval_phydata (s : State) : (phyIrqEval s).phydata = s.phydata := rfl
@[simp] theorem phyIrqEval_txCur (s : State) : (phyIrqEval s).txCur = s.txCur := rfl
@[simp] theorem phyIrqEval_rxCur (s : State) : (phyIrqEval s).rxCur = s.rxCur := rfl
@[simp] theorem phyIrqEval_rxEnabled (s : State) : (phyIrqEval s).rxEnabled = s.rxEnabled := rfl
@[simp] theorem phyIrqEval_irqLevel (s : State) : (phyIrqEval s).irqLevel = s.irqLevel := rfl
@[simp] theorem phyIrqEval_phyControl (s : State) : (phyIrqEval s).phyControl = s.phyControl := rfl
@[simp] theorem phyIrqEval_phyStatus (s : State) : (phyIrqEval s).phyStatus = s.phyStatus := rfl
@[simp] theorem phyIrqEval_phyAdvertise (s : State) : (phyIrqEval s).phyAdvertise = s.phyAdvertise := rfl
@[simp] theorem phyIrqEval_phyInt (s : State) : (phyIrqEval s).phyInt = s.phyInt := rfl
@[simp] theorem phyIrqEval_phyIntMask (s : State) : (phyIrqEval s).phyIntMask = s.phyIntMask := rfl
@[simp] theorem phyIrqEval_faulted (s : State) : (phyIrqEval s).faulted = s.faulted := rfl
@[simp] theorem phyIrqEval_linkUp (s : State) : (phyIrqEval s).linkUp = s.linkUp := rfl
@[simp] theorem phyIrqEval_txOut (s : State) : (phyIrqEval s).txOut = s.txOut := rfl
@[simp] theorem phyIrqEval_diagTrace (s : State) : (phyIrqEval s).diagTrace = s.diagTrace := rfl
@[simp] theorem phyIrqEval_irqChanges (s : State) : (phyIrqEval s).irqChanges = s.irqChanges := rfl
@[simp] theorem phyIrqEval_mem (s : State) : (phyIrqEval s).mem = s.mem := rfl
@[simp] theorem phyIrqEval_pending (s : State) : (phyIrqEval s).pending = s.pending := rfl
@[simp] theorem phyIrqEval_response (s : State) : (phyIrqEval s).response = s.response := rfl

@[simp] theorem guestStore_cfg (a : Word) (bs : List Byte) (s : State) : (guestStore a bs s).cfg = s.cfg := rfl
@[simp] theorem guestStore_isr (a : Word) (bs : List Byte) (s : State) : (guestStore a bs s).isr = s.isr := rfl
@[simp] theorem guestStore_ier (a : Word) (bs : List Byte) (s : State) : (guestStore a bs s).ier = s.ier := rfl
@[simp] theorem guestStore_mac (a : Word) (bs : List Byte) (s : State) : (guestStore a bs s).mac = s.mac := rfl
@[simp] theorem guestStore_rxBase (a : Word) (bs : List Byte) (s : State) : (guestStore a bs s).rxBase = s.rxBase := rfl
@[simp] theorem guestStore_txBase (a : Word) (bs : List Byte) (s : State) : (guestStore a bs s).txBase = s.txBase := rfl
@[simp] theorem guestStore_rbsr (a : Word) (bs : List Byte) (s : State) : (guestStore a bs s).rbsr = s.rbsr := rfl
@[simp] theorem guestStore_aptc (a : Word) (bs : List Byte) (s : State) : (guestStore a bs s).aptc = s.aptc := rfl
@[simp] theorem guestStore_maccr (a : Word) (bs : List Byte) (s : State) : (guestStore a bs s).maccr = s.maccr := rfl
@[simp] theorem guestStore_phycr (a : Word) (bs : List Byte) (s : State) : (guestStore a bs s).phycr = s.phycr := rfl
@[simp] theorem guestStore_phydata (a : Word) (bs : List Byte) (s : State) : (guestStore a bs s).phydata = s.phydata := rfl
@[simp] theorem guestStore_txCur (a : Word) (bs : List Byte) (s : State) : (guestStore a bs s).txCur = s.txCur := rfl
@[simp] theorem guestStore_rxCur (a : Word) (bs : List Byte) (s : State) : (guestStore a bs s).rxCur = s.rxCur := rfl
@[simp] theorem guestStore_rxEnabled (a : Word) (bs : List Byte) (s : State) : (guestStore a bs s).rxEnabled = s.rxEnabled := rfl
@[simp] theorem guestStore_irqLevel (a : Word) (bs : List Byte) (s : State) : (guestStore a bs s).irqLevel = s.irqLevel := rfl
@[simp] theorem guestStore_phyControl (a : Word) (bs : List Byte) (s : State) : (guestStore a bs s).phyControl = s.phyControl := rfl
@[simp] theorem guestStore_phyStatus (a : Word) (bs : List Byte) (s : State) : (guestStore a bs s).phyStatus = s.phyStatus := rfl
@[simp] theorem guestStore_phyAdvertise (a : Word) (bs : List Byte) (s : State) : (guestStore a bs s).phyAdvertise = s.phyAdvertise := rfl
@[simp] theorem guestStore_phyInt (a : Word) (bs : List Byte) (s : State) : (guestStore a bs s).phyInt = s.phyInt := rfl
@[simp] theorem guestStore_phyIntMask (a : Word) (bs : List Byte) (s : State) : (guestStore a bs s).phyIntMask = s.phyIntMask := rfl
@[simp] theorem guestStore_faulted (a : Word) (bs : List Byte) (s : State) : (guestStore a bs s).faulted = s.faulted := rfl
@[simp] theorem guestStore_linkUp (a : Word) (bs : List Byte) (s : State) : (guestStore a bs s).linkUp = s.linkUp := rfl
@[simp] theorem guestStore_txOut (a : Word) (bs : List Byte) (s : State) : (guestStore a bs s).txOut = s.txOut := rfl
@[simp] theorem guestStore_diagTrace (a : Word) (bs : List Byte) (s : State) : (guestStore a bs s).diagTrace = s.diagTrace := rfl
@[simp] theorem guestStore_irqChanges (a : Word) (bs : List Byte) (s : State) : (guestStore a bs s).irqChanges = s.irqChanges := rfl
@[simp] theorem guestStore_mem (a : Word) (bs : List Byte) (s : State) : (guestStore a bs s).mem = busWriteBytes s.cfg.bus s.mem a.toNat bs := rfl
@[simp] theorem guestStore_pending (a : Word) (bs : List Byte) (s : State) : (guestStore a bs s).pending = s.pending := rfl
@[simp] theorem guestStore_response (a : Word) (bs : List Byte) (s : State) : (guestStore a bs s).response = s.response := rfl

end Sys2Proof.Machine
end

