-- ==== Sys2Proof/Laws/Ops.lean ====
section
/-! SUPPORT. What each shared operation can do, said once: later proofs cite these lemmas and do not unfold the
operations. -/

namespace Sys2Proof.Machine

/-! ### Sequencing -/

@[simp] theorem Flow.bind_go {α β : Type} (a : α) (s : State) (f : α → State → Flow β) :
    (Flow.go a s).bind f = f a s := rfl

@[simp] theorem Flow.bind_raised {α β : Type} (s : State) (f : α → State → Flow β) :
    (Flow.raised s : Flow α).bind f = .raised s := rfl

@[simp] theorem Flow.bind_endless {α β : Type} (f : α → State → Flow β) :
    (Flow.endless : Flow α).bind f = .endless := rfl

/-- A sequence goes on when both of its parts do. -/
theorem Flow.bind_eq_go {α β : Type} {x : Flow α} {f : α → State → Flow β} {b : β} {t : State} :
    x.bind f = .go b t ↔ ∃ a s, x = .go a s ∧ f a s = .go b t := by
  cases x <;> simp [Flow.bind]

/-- A sequence raises where its first part raises, or where the first goes on and the second raises. -/
theorem Flow.bind_eq_raised {α β : Type} {x : Flow α} {f : α → State → Flow β} {t : State} :
    x.bind f = .raised t ↔ x = .raised t ∨ ∃ a s, x = .go a s ∧ f a s = .raised t := by
  cases x <;> simp [Flow.bind]

/-- A sequence is endless where one of its parts is. -/
theorem Flow.bind_eq_endless {α β : Type} {x : Flow α} {f : α → State → Flow β} :
    x.bind f = .endless ↔ x = .endless ∨ ∃ a s, x = .go a s ∧ f a s = .endless := by
  cases x <;> simp [Flow.bind]

@[simp] theorem raise_eq_go {α : Type} (k : FaultKind) (s t : State) (a : α) : raise k s ≠ .go a t := by
  simp [raise]

@[simp] theorem raise_eq_raised {α : Type} (k : FaultKind) (s t : State) :
    (raise k s : Flow α) = .raised t ↔ t = { s with faulted := some k } := by
  simp [raise, eq_comm]

/-- What holds of how a part of an operation ends: `Q` where it goes on, `E` where it raised a model fault. -/
def Flow.Post {α : Type} (Q : α → State → Prop) (E : State → Prop) : Flow α → Prop
  | .go a s => Q a s
  | .raised s => E s
  | .endless => True

@[simp] theorem Flow.post_go {α : Type} (Q : α → State → Prop) (E : State → Prop) (a : α) (s : State) :
    Flow.Post Q E (.go a s) ↔ Q a s := Iff.rfl

@[simp] theorem Flow.post_raised {α : Type} (Q : α → State → Prop) (E : State → Prop) (s : State) :
    Flow.Post Q E (.raised s) ↔ E s := Iff.rfl

@[simp] theorem Flow.post_endless {α : Type} (Q : α → State → Prop) (E : State → Prop) :
    Flow.Post Q E .endless := trivial

/-- The rule of sequencing. -/
theorem Flow.post_bind {α β : Type} {Q' : α → State → Prop} {Q : β → State → Prop} {E : State → Prop} {x : Flow α}
    {f : α → State → Flow β} (hx : Flow.Post Q' E x) (hf : ∀ a s, Q' a s → Flow.Post Q E (f a s)) :
    Flow.Post Q E (x.bind f) := by
  cases x with
  | go a s => exact hf a s hx
  | raised s => exact hx
  | endless => trivial

/-- Weakening. -/
theorem Flow.post_mono {α : Type} {Q Q' : α → State → Prop} {E E' : State → Prop} {x : Flow α}
    (h : Flow.Post Q E x) (hq : ∀ a s, Q a s → Q' a s) (he : ∀ s, E s → E' s) : Flow.Post Q' E' x := by
  cases x with
  | go a s => exact hq a s h
  | raised s => exact he s h
  | endless => trivial

/-! ### DMA -/

/-- A read gives the bytes of its range, or raises F_ADDR_WRAP when the range passes the top (R41, R48). -/
theorem memRead_cases (a n : Nat) (s : State) :
    (memRead a n s = .go (busReadBytes s a n) s ∧ (n = 0 ∨ a + n ≤ addrSpace)) ∨
    (memRead a n s = .raised { s with faulted := some (.addrWrap a n) } ∧ n ≠ 0 ∧ addrSpace < a + n) := by
  unfold memRead
  split
  · subst_vars
    exact .inl ⟨rfl, .inl rfl⟩
  · split
    · exact .inr ⟨rfl, ‹_›, ‹_›⟩
    · exact .inl ⟨rfl, .inr (by omega)⟩

/-- A write changes memory alone, or raises F_ADDR_WRAP when the range passes the top (R42, R48). -/
theorem memWrite_cases (a : Nat) (bs : List Byte) (s : State) :
    (memWrite a bs s = .go () { s with mem := busWriteBytes s.cfg.bus s.mem a bs } ∧
      (bs = [] ∨ a + bs.length ≤ addrSpace)) ∨
    (memWrite a bs s = .raised { s with faulted := some (.addrWrap a bs.length) } ∧ bs ≠ [] ∧
      addrSpace < a + bs.length) := by
  unfold memWrite
  split
  · have hb : bs = [] := List.length_eq_zero_iff.mp ‹_›
    subst hb
    exact .inl ⟨rfl, .inl rfl⟩
  · have hb : bs ≠ [] := by
      rintro rfl
      simp at *
    split
    · exact .inr ⟨rfl, hb, ‹_›⟩
    · exact .inl ⟨rfl, .inr (by omega)⟩

/-- A descriptor read gives the descriptor and changes nothing, or raises at the top (R45). -/
theorem readDesc_cases (a : Word) (s : State) :
    (readDesc a s = .go (descOfBytes (busReadBytes s a.toNat descSize)) s ∧ a.toNat + descSize ≤ addrSpace) ∨
    (readDesc a s = .raised { s with faulted := some (.addrWrap a.toNat descSize) } ∧
      addrSpace < a.toNat + descSize) := by
  unfold readDesc
  rcases memRead_cases a.toNat descSize s with ⟨h, hr⟩ | ⟨h, -, hr⟩
  · exact .inl ⟨by rw [h]; rfl, by simpa [descSize] using hr⟩
  · exact .inr ⟨by rw [h]; rfl, hr⟩

@[simp] theorem bytesOfWord_length (w : Word) : (bytesOfWord w).length = 4 := rfl

@[simp] theorem bytesOfDesc_length (d : Desc) : (bytesOfDesc d).length = 16 := rfl

/-- A descriptor write changes memory alone, or raises at the top (R46). -/
theorem writeDesc_cases (a : Word) (d : Desc) (s : State) :
    (writeDesc a d s = .go () { s with mem := busWriteBytes s.cfg.bus s.mem a.toNat (bytesOfDesc d) } ∧
      a.toNat + descSize ≤ addrSpace) ∨
    (writeDesc a d s = .raised { s with faulted := some (.addrWrap a.toNat descSize) } ∧
      addrSpace < a.toNat + descSize) := by
  unfold writeDesc
  rcases memWrite_cases a.toNat (bytesOfDesc d) s with ⟨h, hr⟩ | ⟨h, -, hr⟩
  · refine .inl ⟨h, ?_⟩
    rcases hr with hr | hr
    · exact absurd (congrArg List.length hr) (by simp)
    · simpa [descSize] using hr
  · exact .inr ⟨by simpa [descSize] using h, by simpa [descSize] using hr⟩

/-- A cursor step gives the next place, or raises at the top (R48). -/
theorem stepUp_cases (cur : Word) (s : State) :
    (stepUp cur s = .go (cur + 16#32) s ∧ cur.toNat + descSize < addrSpace) ∨
    (stepUp cur s = .raised { s with faulted := some (.addrWrap (cur.toNat + descSize) descSize) } ∧
      addrSpace ≤ cur.toNat + descSize) := by
  unfold stepUp
  split
  · exact .inr ⟨rfl, ‹_›⟩
  · exact .inl ⟨rfl, by omega⟩

/-- The address of the next descriptor is 16 higher (R47). -/
theorem stepUp_toNat (cur : Word) (h : cur.toNat + descSize < addrSpace) : (cur + 16#32).toNat = cur.toNat + 16 := by
  simp only [descSize, addrSpace] at h
  rw [BitVec.toNat_add]
  exact Nat.mod_eq_of_lt h

/-- The ring cursor rule changes nothing: the base, the next place, or a raise at the top (R47). -/
theorem advance_cases (cur : Word) (d : Desc) (base : Word) (s : State) :
    (advance cur d base s = .go base s ∧ d.eor s.cfg.variant = true) ∨
    (advance cur d base s = .go (cur + 16#32) s ∧ d.eor s.cfg.variant = false ∧ cur.toNat + descSize < addrSpace) ∨
    (advance cur d base s = .raised { s with faulted := some (.addrWrap (cur.toNat + descSize) descSize) } ∧
      d.eor s.cfg.variant = false ∧ addrSpace ≤ cur.toNat + descSize) := by
  unfold advance
  split
  · exact .inl ⟨rfl, ‹_›⟩
  · rename_i hne
    have he : d.eor s.cfg.variant = false := by simpa using hne
    rcases stepUp_cases cur s with ⟨h, hr⟩ | ⟨h, hr⟩
    · exact .inr (.inl ⟨h, he, hr⟩)
    · exact .inr (.inr ⟨h, he, hr⟩)

/-! ### One operation -/

/-- A faulted device performs nothing (R34). -/
theorem perform_faulted {body : State → Flow Response} {s : State} {k : FaultKind} (h : s.faulted = some k) :
    perform body s = .fault (.stuck k) := by
  simp [perform, h]

/-- What an operation on a device that is not faulted answers (R114, R177). -/
theorem perform_running {body : State → Flow Response} {s : State} (h : s.faulted = none) :
    perform body s = finish (body s) := by
  simp only [perform, h]

@[simp] theorem finish_go (r : Response) (t : State) :
    finish (.go r t) = .next { irqUpdate t with response := r } := rfl

@[simp] theorem finish_raised (t : State) : finish (.raised t) = .next { t with response := .nothing } := rfl

@[simp] theorem finish_endless : finish .endless = .fault .walkNeverEnds := rfl

/-- An operation that answers a next state ran to its end, or raised a model fault. -/
theorem perform_next {body : State → Flow Response} {s t : State} (h : perform body s = .next t) :
    s.faulted = none ∧
      ((∃ r u, body s = .go r u ∧ t = { irqUpdate u with response := r }) ∨
       (∃ u, body s = .raised u ∧ t = { u with response := .nothing })) := by
  cases hf : s.faulted with
  | some k => simp [perform_faulted hf] at h
  | none =>
    rw [perform_running hf] at h
    refine ⟨rfl, ?_⟩
    generalize body s = x at h ⊢
    cases x with
    | go r u => exact .inl ⟨r, u, rfl, by simpa using h.symm⟩
    | raised u => exact .inr ⟨u, rfl, by simpa using h.symm⟩
    | endless => simp at h

/-- A read answers its value and drives the line (R51, R114). -/
theorem busReadOp_next (value : State → Word) {s : State} (h : s.faulted = none) :
    busReadOp value s = .next { irqUpdate s with response := .rd32 (value s) } := by
  simp [busReadOp, perform_running h]

/-- A write that raises nothing answers its effect and drives the line (R114). -/
theorem busWriteOp_next (effect : State → State) {s : State} (h : s.faulted = none) :
    busWriteOp effect s = .next { irqUpdate (effect s) with response := .nothing } := by
  simp [busWriteOp, perform_running h]

end Sys2Proof.Machine
end

