-- ==== Sys2Proof/Laws/Engines.lean ====
section
/-! SUPPORT. What the scans, the transmit engine and the receive engine can do to a state, said once for every run of
them. -/

namespace Sys2Proof.Machine

/-! ### The scans -/

/-- The locate scan changes nothing; it raises only F_ADDR_WRAP (R117). -/
theorem locate_post (fuel : Nat) (c : Word) (s : State) :
    Flow.Post (fun _ t => t = s) (fun t => ∃ k, t = { s with faulted := some k }) (locate fuel c s) := by
  induction fuel generalizing c with
  | zero => trivial
  | succ fuel ih =>
    unfold locate
    rcases readDesc_cases c s with ⟨h, -⟩ | ⟨h, -⟩
    · rw [h, Flow.bind_go]
      split
      · rfl
      · rcases stepUp_cases c s with ⟨h, -⟩ | ⟨h, -⟩
        · rw [h, Flow.bind_go]
          exact ih _
        · rw [h]
          exact ⟨_, rfl⟩
    · rw [h]
      exact ⟨_, rfl⟩

/-- Where the locate scan stops: `m` places on, at the first descriptor with FTS or the end-of-ring bit (R117). -/
theorem locate_stops (s : State) (m fuel : Nat) (c : Word) (hf : m < fuel) (hc : c.toNat + 16 * m + 16 ≤ addrSpace)
    (hskip : ∀ k < m, ∀ d, readDesc (c + BitVec.ofNat 32 (16 * k)) s = .go d s → (d.fts || d.eor s.cfg.variant) = false)
    (hstop : ∀ d, readDesc (c + BitVec.ofNat 32 (16 * m)) s = .go d s → (d.fts || d.eor s.cfg.variant) = true) :
    locate fuel c s = .go (c + BitVec.ofNat 32 (16 * m)) s := by
  induction m generalizing fuel c with
  | zero =>
    obtain ⟨fuel, rfl⟩ := Nat.exists_eq_add_of_lt hf
    have h0 : c + BitVec.ofNat 32 (16 * 0) = c := by simp
    rw [h0] at hstop ⊢
    rcases readDesc_cases c s with ⟨h, -⟩ | ⟨-, h⟩
    · simp only [Nat.zero_add, locate, h, Flow.bind_go, hstop _ h, if_true]
    · simp only [descSize] at h; omega
  | succ m ih =>
    obtain ⟨fuel, rfl⟩ : ∃ n, fuel = n + 1 := ⟨fuel - 1, by omega⟩
    have ha : addrSpace = 2 ^ 32 := rfl
    have hn : (c + 16#32).toNat = c.toNat + 16 := stepUp_toNat c (by simp only [descSize]; omega)
    have hp (k : Nat) : c + 16#32 + BitVec.ofNat 32 (16 * k) = c + BitVec.ofNat 32 (16 * (k + 1)) := by
      rw [BitVec.add_assoc, Nat.mul_succ, BitVec.ofNat_add, BitVec.add_comm 16#32]
    have h0 := hskip 0 (by omega)
    rw [show c + BitVec.ofNat 32 (16 * 0) = c by simp] at h0
    rcases readDesc_cases c s with ⟨h, -⟩ | ⟨-, h⟩
    · rcases stepUp_cases c s with ⟨hs, -⟩ | ⟨-, hs⟩
      · rw [locate, h, Flow.bind_go, h0 _ h, if_neg Bool.false_ne_true, hs, Flow.bind_go, ← hp m]
        refine ih fuel (c + 16#32) (by omega) (by omega) (fun k hk => ?_) ?_
        · rw [hp k]
          exact hskip (k + 1) (by omega)
        · rw [hp m]
          exact hstop
      · simp only [descSize] at hs; omega
    · simp only [descSize] at h; omega

/-- The enable scan's walk changes nothing; it raises only F_ADDR_WRAP (R133). -/
theorem scanFree_post (fuel : Nat) (c : Word) (s : State) :
    Flow.Post (fun _ t => t = s) (fun t => ∃ k, t = { s with faulted := some k }) (scanFree fuel c s) := by
  induction fuel generalizing c with
  | zero => trivial
  | succ fuel ih =>
    unfold scanFree
    rcases readDesc_cases c s with ⟨h, -⟩ | ⟨h, -⟩
    · rw [h, Flow.bind_go]
      split
      · rfl
      · split
        · rfl
        · rcases stepUp_cases c s with ⟨h, -⟩ | ⟨h, -⟩
          · rw [h, Flow.bind_go]
            exact ih _
          · rw [h]
            exact ⟨_, rfl⟩
    · rw [h]
      exact ⟨_, rfl⟩

/-- The enable scan sets rxEnabled alone (R133). -/
theorem enableScan_post (s : State) :
    Flow.Post (fun _ t => ∃ b, t = { s with rxEnabled := b }) (fun t => ∃ k, t = { s with faulted := some k })
      (enableScan s) :=
  Flow.post_bind (scanFree_post _ _ s) fun b _ h => ⟨b, by rw [h]⟩

/-! ### The transmit engine -/

/-- What a part of a kick can change: memory, frames appended, TX cause bits set, diagnostics appended. -/
def TxStep (s t : State) : Prop :=
  ∃ m o x dg, x &&& ~~~0x70#32 = 0#32 ∧
    t = { s with mem := m, txOut := s.txOut ++ o, isr := s.isr ||| x, diagTrace := s.diagTrace ++ dg }

/-- A part of a kick that raised: the changes made so far, and the fault. -/
def TxRaised (s t : State) : Prop := ∃ w k, TxStep s w ∧ t = { w with faulted := some k }

theorem TxStep.refl (s : State) : TxStep s s :=
  ⟨s.mem, [], 0#32, [], by decide, by simp⟩

theorem TxStep.trans {s t u : State} (h : TxStep s t) (h' : TxStep t u) : TxStep s u := by
  obtain ⟨m, o, x, dg, hx, rfl⟩ := h
  obtain ⟨m', o', x', dg', hx', rfl⟩ := h'
  refine ⟨m', o ++ o', x ||| x', dg ++ dg', ?_, by simp [BitVec.or_assoc]⟩
  rw [show (x ||| x') &&& ~~~0x70#32 = (x &&& ~~~0x70#32) ||| (x' &&& ~~~0x70#32) by
    ext i; simp; cases x[i] <;> simp, hx, hx']
  rfl

theorem TxRaised.raise {s : State} (k : FaultKind) : TxRaised s { s with faulted := some k } := ⟨s, k, .refl s, rfl⟩

theorem TxStep.raised {s t u : State} (h : TxStep s t) (h' : TxRaised t u) : TxRaised s u := by
  obtain ⟨w, k, hw, rfl⟩ := h'
  exact ⟨w, k, h.trans hw, rfl⟩

theorem TxStep.store {s : State} (m : Memory) : TxStep s { s with mem := m } :=
  ⟨m, [], 0#32, [], by decide, by simp⟩

theorem TxStep.logged {s : State} (c : Diag) : TxStep s (diag c s) :=
  ⟨s.mem, [], 0#32, [c], by decide, by simp [diag]⟩

theorem TxStep.sent {s : State} (f : List Byte) : TxStep s (send f s) :=
  ⟨s.mem, [f], 0#32, [], by decide, by simp [send]⟩

theorem TxStep.caused {s : State} (x : Word) (hx : x &&& ~~~0x70#32 = 0#32) : TxStep s (cause x s) :=
  ⟨s.mem, [], x, [], hx, by simp [cause]⟩

/-- Step 4's interrupt sets a TX cause bit or nothing (R121). -/
theorem txCause_step (d : Desc) (s : State) : TxStep s (txCause d s) := by
  unfold txCause
  split
  · exact .caused _ (by decide)
  · split
    · exact .caused _ (by decide)
    · exact .refl s

/-- Step 3 of the walk (R119). -/
theorem txCopy_post (acc : List Byte) (d : Desc) (s : State) :
    Flow.Post (fun _ => TxStep s) (TxRaised s) (txCopy acc d s) := by
  have hd : TxStep s (if maxFrame s < acc.length + d.txSize then diag .txTooBig s else s) := by
    split
    · exact .logged _
    · exact .refl s
  refine Flow.post_bind (Q' := fun _ => TxStep s) ?_ fun _ _ h => h
  rcases memRead_cases d.buffer (txCopyLen s acc d)
    (if maxFrame s < acc.length + d.txSize then diag .txTooBig s else s) with ⟨h, -⟩ | ⟨h, -⟩
  · rw [h]
    exact hd
  · rw [h]
    exact hd.raised (.raise _)

/-- Step 4 of the walk (R120, R121). -/
theorem txSend_post (acc : List Byte) (d : Desc) (s : State) :
    Flow.Post (fun _ => TxStep s) (TxRaised s) (txSend acc d s) := by
  unfold txSend
  split
  · exact (TxStep.sent acc).trans (txCause_step d _)
  · exact TxStep.refl s

/-- Steps 3 to 6 at one owned descriptor (R119-R123). -/
theorem txVisit_post (acc : List Byte) (cur : Word) (d : Desc) (s : State) :
    Flow.Post (fun _ => TxStep s) (TxRaised s) (txVisit acc cur d s) := by
  refine Flow.post_bind (txCopy_post acc d s) fun acc s1 h1 => ?_
  refine Flow.post_bind (Flow.post_mono (txSend_post acc d s1) (fun _ _ => h1.trans) fun _ => h1.raised) fun acc s2 h2 => ?_
  refine Flow.post_bind (Q' := fun _ => TxStep s) ?_ fun _ s3 h3 => ?_
  · rcases writeDesc_cases cur d.handBack s2 with ⟨h, -⟩ | ⟨h, -⟩
    · rw [h]
      exact h2.trans (.store _)
    · rw [h]
      exact h2.raised (.raise _)
  · rcases advance_cases cur d.handBack s3.txBase s3 with ⟨h, -⟩ | ⟨h, -⟩ | ⟨h, -⟩
    · rw [h]
      exact h3
    · rw [h]
      exact h3
    · rw [h]
      exact h3.raised (.raise _)

/-- The walk of a kick (R116). -/
theorem txLoop_post (fuel : Nat) (acc : List Byte) (cur : Word) (s : State) :
    Flow.Post (fun _ => TxStep s) (TxRaised s) (txLoop fuel acc cur s) := by
  induction fuel generalizing acc cur s with
  | zero => trivial
  | succ fuel ih =>
    unfold txLoop
    rcases readDesc_cases cur s with ⟨h, -⟩ | ⟨h, -⟩
    · rw [h, Flow.bind_go]
      split
      · exact Flow.post_bind (txVisit_post acc cur _ s) fun n t ht =>
          Flow.post_mono (ih n.1 n.2 t) (fun _ _ => ht.trans) fun _ => ht.raised
      · exact TxStep.caused _ (by decide)
    · rw [h]
      exact TxRaised.raise _

/-- A kick changes what TxStep names and, where it ends, txCur (R116, R124). -/
theorem txKick_post (s : State) :
    Flow.Post (fun _ t => ∃ u cur, TxStep s u ∧ t = { u with txCur := cur }) (TxRaised s) (txKick s) := by
  refine Flow.post_bind (Q' := fun _ t => t = s) (Flow.post_mono (locate_post _ _ s) (fun _ _ h => h) ?_) ?_
  · rintro _ ⟨k, rfl⟩
    exact .raise _
  · intro cur t ht
    subst ht
    exact Flow.post_bind (txLoop_post walkFuel [] cur t) fun c u hu => ⟨u, c, hu, rfl⟩

/-! ### The receive engine -/

/-- What a part of a delivery can change: memory, RX cause bits set, diagnostics appended, rxCur, rxEnabled. -/
def RxStep (s t : State) : Prop :=
  ∃ m x dg c e, x &&& ~~~0x7#32 = 0#32 ∧
    t = { s with mem := m, isr := s.isr ||| x, diagTrace := s.diagTrace ++ dg, rxCur := c, rxEnabled := e }

/-- A part of a delivery that raised: the changes made so far, and the fault. -/
def RxRaised (s t : State) : Prop := ∃ w k, RxStep s w ∧ t = { w with faulted := some k }

theorem RxStep.refl (s : State) : RxStep s s :=
  ⟨s.mem, 0#32, [], s.rxCur, s.rxEnabled, by decide, by simp⟩

theorem RxStep.trans {s t u : State} (h : RxStep s t) (h' : RxStep t u) : RxStep s u := by
  obtain ⟨m, x, dg, c, e, hx, rfl⟩ := h
  obtain ⟨m', x', dg', c', e', hx', rfl⟩ := h'
  refine ⟨m', x ||| x', dg ++ dg', c', e', ?_, by simp [BitVec.or_assoc]⟩
  rw [show (x ||| x') &&& ~~~0x7#32 = (x &&& ~~~0x7#32) ||| (x' &&& ~~~0x7#32) by
    ext i; simp; cases x[i] <;> simp, hx, hx']
  rfl

theorem RxRaised.raise {s : State} (k : FaultKind) : RxRaised s { s with faulted := some k } := ⟨s, k, .refl s, rfl⟩

theorem RxStep.raised {s t u : State} (h : RxStep s t) (h' : RxRaised t u) : RxRaised s u := by
  obtain ⟨w, k, hw, rfl⟩ := h'
  exact ⟨w, k, h.trans hw, rfl⟩

theorem RxStep.store {s : State} (m : Memory) : RxStep s { s with mem := m } :=
  ⟨m, 0#32, [], s.rxCur, s.rxEnabled, by decide, by simp⟩

theorem RxStep.moved {s : State} (c : Word) : RxStep s { s with rxCur := c } :=
  ⟨s.mem, 0#32, [], c, s.rxEnabled, by decide, by simp⟩

theorem RxStep.scanned {s : State} (e : Bool) : RxStep s { s with rxEnabled := e } :=
  ⟨s.mem, 0#32, [], s.rxCur, e, by decide, by simp⟩

theorem RxStep.logged {s : State} (c : Diag) : RxStep s (diag c s) :=
  ⟨s.mem, 0#32, [c], s.rxCur, s.rxEnabled, by decide, by simp [diag]⟩

theorem RxStep.caused {s : State} (x : Word) (hx : x &&& ~~~0x7#32 = 0#32) : RxStep s (cause x s) :=
  ⟨s.mem, x, [], s.rxCur, s.rxEnabled, hx, by simp [cause]⟩

/-- One free descriptor filled (R139-R144). -/
theorem rxVisit_post (first bc ftl : Bool) (rest : List Byte) (d : Desc) (s : State) :
    Flow.Post (fun _ => RxStep s) (RxRaised s) (rxVisit first bc ftl rest d s) := by
  unfold rxVisit
  refine Flow.post_bind (Q' := fun _ => RxStep s) ?_ fun _ s1 h1 => ?_
  · rcases memWrite_cases d.buffer (rest.take (rxChunk s rest)) s with ⟨h, -⟩ | ⟨h, -⟩
    · rw [h]
      exact .store _
    · rw [h]
      exact .raise _
  · refine Flow.post_bind (Q' := fun _ => RxStep s) ?_ fun _ s2 h2 => ?_
    · rcases writeDesc_cases s1.rxCur
        (d.rxDone (rxChunk s rest) first (rest.drop (rxChunk s rest)).isEmpty bc ftl) s1 with ⟨h, -⟩ | ⟨h, -⟩
      · rw [h]
        exact h1.trans (.store _)
      · rw [h]
        exact h1.raised (.raise _)
    · have hc : ∀ b : Bool, RxStep s (cause (if b then causeRpktBuf else causeRpktFifo) s2) := by
        intro b
        cases b <;> exact h2.trans (.caused _ (by decide))
      refine Flow.post_bind (Q' := fun _ => RxStep s) ?_ fun c s3 h3 => h3.trans (.moved c)
      rcases advance_cases (cause (if (rest.drop (rxChunk s rest)).isEmpty then causeRpktBuf else causeRpktFifo) s2).rxCur
        (d.rxDone (rxChunk s rest) first (rest.drop (rxChunk s rest)).isEmpty bc ftl)
        (cause (if (rest.drop (rxChunk s rest)).isEmpty then causeRpktBuf else causeRpktFifo) s2).rxBase
        (cause (if (rest.drop (rxChunk s rest)).isEmpty then causeRpktBuf else causeRpktFifo) s2) with
        ⟨h, -⟩ | ⟨h, -⟩ | ⟨h, -⟩
      · rw [h]
        exact hc _
      · rw [h]
        exact hc _
      · rw [h]
        exact (hc _).raised (.raise _)

/-- The loop of a delivery (R138). -/
theorem rxLoop_post (bc ftl : Bool) (fuel : Nat) (first : Bool) (rest : List Byte) (s : State) :
    Flow.Post (fun _ => RxStep s) (RxRaised s) (rxLoop bc ftl fuel first rest s) := by
  induction fuel generalizing first rest s with
  | zero => trivial
  | succ fuel ih =>
    unfold rxLoop
    split
    · exact RxStep.refl s
    · rcases readDesc_cases s.rxCur s with ⟨h, -⟩ | ⟨h, -⟩
      · rw [h, Flow.bind_go]
        split
        · exact Flow.post_bind (rxVisit_post first bc ftl rest _ s) fun left t ht =>
            Flow.post_mono (ih false left t) (fun _ _ => ht.trans) fun _ => ht.raised
        · exact (RxStep.caused _ (by decide)).trans (.logged _)
      · rw [h]
        exact RxRaised.raise _

/-- An accepted delivery changes what RxStep names (R138, R145). -/
theorem rxAccept_post (frame : List Byte) (s : State) :
    Flow.Post (fun _ => RxStep s) (RxRaised s) (rxAccept frame s) := by
  have hd : RxStep s (if rxTooLong s frame then diag .rxTooBig s else s) := by
    split
    · exact .logged _
    · exact .refl s
  refine Flow.post_bind (Flow.post_mono (rxLoop_post _ _ _ _ _ _) (fun _ _ => hd.trans) fun _ => hd.raised) ?_
  intro _ s1 h1
  refine Flow.post_mono (enableScan_post s1) ?_ ?_
  · rintro _ _ ⟨b, rfl⟩
    exact h1.trans (.scanned b)
  · rintro _ ⟨k, rfl⟩
    exact h1.raised (.raise _)

end Sys2Proof.Machine
end

