-- ==== Sys2Proof/Laws/Exec.lean ====
section
/-! SUPPORT. What every operation can do, said once: the states an operation that ends can leave before the line is driven,
and those in which one that raised a model fault stops. -/

namespace Sys2Proof.Machine

/-- `Effect i s u`: operation `i` at `s`, where it raises nothing, can leave `u` before irq_update. -/
def Effect (i : Instr) (s u : State) : Prop :=
  match i with
  | .rdIsr | .rdIer | .rdMadr | .rdLadr | .rdNptxpd | .rdRxpd | .rdNptxrBadr | .rdRxrBadr | .rdAptc | .rdRbsr
  | .rdMaccr | .rdPhycr | .rdPhydata | .hostCanReceive | .wrRxpd _ => u = s
  | .wrIsr v => u = { s with isr := s.isr &&& ~~~v }
  | .wrIer v => u = { s with ier := v }
  | .wrMadr v => u = { s with mac := withMadr v s.mac }
  | .wrLadr v => u = { s with mac := withLadr v s.mac }
  | .wrNptxpd _ =>
    (txdmaEn s.maccr = false ∧ u = s) ∨ (txdmaEn s.maccr = true ∧ ∃ w cur, TxStep s w ∧ u = { w with txCur := cur })
  | .wrNptxrBadr v => baseLow v = 0 ∧ u = { s with txBase := v, txCur := v }
  | .wrRxrBadr v => baseLow v = 0 ∧ u = { s with rxBase := v, rxCur := v }
  | .wrAptc v => u = { s with aptc := v }
  | .wrRbsr v => u = { s with rbsr := rbsrField v }
  | .wrMaccr v =>
    (swRst v = true ∧ u = deviceReset { s with maccr := v }) ∨
    (swRst v = false ∧ ∃ b, (b = true → rxdmaEn v = true) ∧ u = { s with maccr := v, rxEnabled := b }) ∨
    (swRst v = false ∧ rxdmaEn v = true ∧ rxdmaEn s.maccr = true ∧ u = { s with maccr := v })
  | .wrPhycr v => u = mdioAccess v { s with phycr := v }
  | .wrPhydata v => u = { s with phydata := phydataStored v }
  | .hostDeliver _ => (s.rxEnabled = false ∧ u = diag .rxNotEnabled s) ∨ (s.rxEnabled = true ∧ RxStep s u)
  | .hostLink up => u = phyUpdateLink { s with linkUp := up }
  | .hostReset => u = deviceReset s
  | .badAccessRdB _ | .badAccessRdH _ | .badAccessRdD _ | .badAccessRdMis1 _ | .badAccessRdMis2 _ | .badAccessRdMis3 _
  | .badAccessWrB _ _ | .badAccessWrH _ _ | .badAccessWrD _ _ | .badAccessWrMis1 _ _ | .badAccessWrMis2 _ _
  | .badAccessWrMis3 _ _ => u = diag .badAccess s
  | .rdUnmapped _ | .wrUnmapped _ _ => u = diag .unmapped s

/-- `Raises i s u`: operation `i` at `s` can raise a model fault and stop at `u` (R177); only these four can. -/
def Raises (i : Instr) (s u : State) : Prop :=
  match i with
  | .wrNptxrBadr v | .wrRxrBadr v => baseLow v ≠ 0 ∧ ∃ k, u = { s with faulted := some k }
  | .wrNptxpd _ => txdmaEn s.maccr = true ∧ TxRaised s u
  | .wrMaccr v =>
    swRst v = false ∧ rxdmaEn v = true ∧ rxdmaEn s.maccr = false ∧ ∃ k, u = { s with maccr := v, faulted := some k }
  | .hostDeliver _ => s.rxEnabled = true ∧ RxRaised s u
  | _ => False

/-- What the body of an operation can do is what the operation can do. -/
theorem perform_next_of_post {body : State → Flow Response} {s t : State} {Q E : State → Prop}
    (hb : Flow.Post (fun _ => Q) E (body s)) (h : perform body s = .next t) :
    s.faulted = none ∧ ((∃ r u, Q u ∧ t = { irqUpdate u with response := r }) ∨
      (∃ u, E u ∧ t = { u with response := .nothing })) := by
  obtain ⟨hf, ⟨r, u, hu, rfl⟩ | ⟨u, hu, rfl⟩⟩ := perform_next h
  · rw [hu] at hb
    exact ⟨hf, .inl ⟨r, u, hb, rfl⟩⟩
  · rw [hu] at hb
    exact ⟨hf, .inr ⟨u, hb, rfl⟩⟩

/-- A kick (R94). -/
theorem kick_post (v : Word) (s : State) :
    Flow.Post (fun _ => Effect (.wrNptxpd v) s) (Raises (.wrNptxpd v) s)
      (if txdmaEn s.maccr then (txKick s).bind fun _ s => .go Response.nothing s else .go .nothing s) := by
  split
  · rename_i he
    refine Flow.post_bind (Flow.post_mono (txKick_post s) (fun _ _ h => h) fun _ h => ⟨he, h⟩) ?_
    rintro _ u ⟨w, cur, hw, rfl⟩
    exact .inr ⟨he, w, cur, hw, rfl⟩
  · exact .inl ⟨by simp_all, rfl⟩

/-- A MACCR write without SW_RST, after the value is stored (R106). -/
theorem maccrEnable_post (v : Word) (s : State) :
    Flow.Post (fun _ u => (∃ b, (b = true → rxdmaEn v = true) ∧ u = { s with maccr := v, rxEnabled := b }) ∨
        (rxdmaEn v = true ∧ rxdmaEn s.maccr = true ∧ u = { s with maccr := v }))
      (fun u => rxdmaEn v = true ∧ rxdmaEn s.maccr = false ∧ ∃ k, u = { s with maccr := v, faulted := some k })
      (maccrEnable s.maccr v { s with maccr := v }) := by
  unfold maccrEnable
  split
  · rename_i hv
    split
    · rename_i ho
      exact .inr ⟨hv, ho, rfl⟩
    · rename_i ho
      refine Flow.post_mono (enableScan_post _) ?_ ?_
      · rintro _ u ⟨b, rfl⟩
        exact .inl ⟨b, fun _ => hv, rfl⟩
      · rintro u ⟨k, rfl⟩
        exact ⟨hv, by simpa using ho, k, rfl⟩
  · exact .inl ⟨false, by simp, rfl⟩

/-- A delivery (R138). -/
theorem deliver_post (f : List Byte) (s : State) :
    Flow.Post (fun _ => Effect (.hostDeliver f) s) (Raises (.hostDeliver f) s)
      (if s.rxEnabled then (rxAccept f s).bind fun _ s => .go Response.nothing s
        else .go .nothing (diag .rxNotEnabled s)) := by
  split
  · rename_i he
    exact Flow.post_bind (Flow.post_mono (rxAccept_post f s) (fun _ _ h => h) fun _ h => ⟨he, h⟩)
      fun _ u hu => .inr ⟨he, hu⟩
  · exact .inl ⟨by simp_all, rfl⟩

/-- An operation that raised left the device faulted (R177). -/
theorem Raises.faulted {i : Instr} {s u : State} (h : Raises i s u) : u.faulted ≠ none := by
  cases i <;> simp only [Raises] at h
  · obtain ⟨-, w, k, -, rfl⟩ := h
    simp
  · obtain ⟨-, k, rfl⟩ := h
    simp
  · obtain ⟨-, k, rfl⟩ := h
    simp
  · obtain ⟨-, -, -, k, rfl⟩ := h
    simp
  · obtain ⟨-, w, k, -, rfl⟩ := h
    simp

/-- Every operation that answers a next state left one of its effects and drove the line, or raised a model fault. -/
theorem exec_next {i : Instr} {s t : State} (h : exec i s = .next t) :
    s.faulted = none ∧ ((∃ r u, Effect i s u ∧ t = { irqUpdate u with response := r }) ∨
      (∃ u, Raises i s u ∧ t = { u with response := .nothing })) := by
  cases i
  case wrNptxpd v =>
    rw [exec, execWrNptxpd] at h
    exact perform_next_of_post (kick_post v s) h
  case hostDeliver f =>
    rw [exec, execHostDeliver] at h
    exact perform_next_of_post (deliver_post f s) h
  case wrMaccr v =>
    rw [exec, execWrMaccr] at h
    refine perform_next_of_post (Q := Effect (.wrMaccr v) s) (E := Raises (.wrMaccr v) s) ?_ h
    split
    · exact .inl ⟨‹_›, rfl⟩
    · have hv : swRst v = false := by simp_all
      refine Flow.post_bind (Flow.post_mono (maccrEnable_post v s) (fun _ _ h => h) fun _ h => ⟨hv, h⟩) ?_
      rintro _ u (⟨b, hb, rfl⟩ | ⟨h1, h2, rfl⟩)
      · exact .inr (.inl ⟨hv, b, hb, rfl⟩)
      · exact .inr (.inr ⟨hv, h1, h2, rfl⟩)
  case wrNptxrBadr v =>
    rw [exec, execWrNptxrBadr] at h
    refine perform_next_of_post (Q := Effect (.wrNptxrBadr v) s) (E := Raises (.wrNptxrBadr v) s) ?_ h
    split
    · exact ⟨‹_›, rfl⟩
    · exact ⟨‹_›, _, rfl⟩
  case wrRxrBadr v =>
    rw [exec, execWrRxrBadr] at h
    refine perform_next_of_post (Q := Effect (.wrRxrBadr v) s) (E := Raises (.wrRxrBadr v) s) ?_ h
    split
    · exact ⟨‹_›, rfl⟩
    · exact ⟨‹_›, _, rfl⟩
  all_goals
    simp only [exec, execRdIsr, execRdIer, execRdMadr, execRdLadr, execRdNptxpd, execRdRxpd, execRdNptxrBadr,
      execRdRxrBadr, execRdAptc, execRdRbsr, execRdMaccr, execRdPhycr, execRdPhydata, execHostCanReceive, execWrIsr,
      execWrIer, execWrMadr, execWrLadr, execWrRxpd, execWrAptc, execWrRbsr, execWrPhycr, execWrPhydata, execHostLink,
      execHostReset, execBadAccessRdB, execBadAccessRdH, execBadAccessRdD, execBadAccessRdMis1, execBadAccessRdMis2,
      execBadAccessRdMis3, execBadAccessWrB, execBadAccessWrH, execBadAccessWrD, execBadAccessWrMis1,
      execBadAccessWrMis2, execBadAccessWrMis3, execRdUnmapped, execWrUnmapped, busReadOp, busWriteOp,
      ignoredAccess] at h
    refine perform_next_of_post (Q := Effect _ s) (E := Raises _ s) ?_ h
    exact rfl

end Sys2Proof.Machine
end

