-- ==== Sys2Proof/Laws/PerInstr.lean ====
section
/-! SUPPORT. Per instruction: the word that encodes it is one its own row of the opcode table admits. -/

namespace Sys2Proof.Laws.WordFits

/-- The encoded word of a well-formed operation has the fixed bits of a row of the opcode table under the operation's own
mnemonic (R81, R84). -/
def Statement (i : Instr) : Prop :=
  i.wellFormed = true →
    ∃ row ∈ opcodeTable, row.mnemonic = i.mnemonic ∧ (encode i).word &&& row.mask = row.pattern

/-- The bits a row that leaves OFF open fixes: class, size, direction (R60). -/
theorem access_word (sz : BitVec 2) (dir : Bool) (off : Offset) :
    mmioWord sz dir off &&& 0xFFFFE000#32 = mmioWord sz dir 0#13 :=
  (mmioWord_and sz dir off 0#13).trans (by rw [BitVec.and_zero])

/-- The bits a row of misaligned or unmapped accesses fixes: those and OFF[1:0] (R111). -/
theorem aligned_word (dir : Bool) {off : Offset} {k : BitVec 2} (h : Machine.offLow off = k) :
    mmioWord 2#2 dir off &&& 0xFFFFE003#32 = mmioWord 2#2 dir (k.setWidth 13) :=
  (mmioWord_and 2#2 dir off 3#13).trans (by rw [and_three, h])

theorem rdIsr : Statement .rdIsr := by
  intro _
  exact ⟨⟨"RD_ISR", 0xFFFFFFFF#32, 0x00008000#32⟩, by decide, rfl,
    (by decide : mmioWord 2#2 false (Machine.regOffset .isr) &&& 0xFFFFFFFF#32 = 0x00008000#32)⟩

theorem wrIsr (value : Word) : Statement (.wrIsr value) := by
  intro _
  exact ⟨⟨"WR_ISR", 0xFFFFFFFF#32, 0x0000A000#32⟩, by decide, rfl,
    (by decide : mmioWord 2#2 true (Machine.regOffset .isr) &&& 0xFFFFFFFF#32 = 0x0000A000#32)⟩

theorem rdIer : Statement .rdIer := by
  intro _
  exact ⟨⟨"RD_IER", 0xFFFFFFFF#32, 0x00008004#32⟩, by decide, rfl,
    (by decide : mmioWord 2#2 false (Machine.regOffset .ier) &&& 0xFFFFFFFF#32 = 0x00008004#32)⟩

theorem wrIer (value : Word) : Statement (.wrIer value) := by
  intro _
  exact ⟨⟨"WR_IER", 0xFFFFFFFF#32, 0x0000A004#32⟩, by decide, rfl,
    (by decide : mmioWord 2#2 true (Machine.regOffset .ier) &&& 0xFFFFFFFF#32 = 0x0000A004#32)⟩

theorem rdMadr : Statement .rdMadr := by
  intro _
  exact ⟨⟨"RD_MADR", 0xFFFFFFFF#32, 0x00008008#32⟩, by decide, rfl,
    (by decide : mmioWord 2#2 false (Machine.regOffset .madr) &&& 0xFFFFFFFF#32 = 0x00008008#32)⟩

theorem wrMadr (value : Word) : Statement (.wrMadr value) := by
  intro _
  exact ⟨⟨"WR_MADR", 0xFFFFFFFF#32, 0x0000A008#32⟩, by decide, rfl,
    (by decide : mmioWord 2#2 true (Machine.regOffset .madr) &&& 0xFFFFFFFF#32 = 0x0000A008#32)⟩

theorem rdLadr : Statement .rdLadr := by
  intro _
  exact ⟨⟨"RD_LADR", 0xFFFFFFFF#32, 0x0000800C#32⟩, by decide, rfl,
    (by decide : mmioWord 2#2 false (Machine.regOffset .ladr) &&& 0xFFFFFFFF#32 = 0x0000800C#32)⟩

theorem wrLadr (value : Word) : Statement (.wrLadr value) := by
  intro _
  exact ⟨⟨"WR_LADR", 0xFFFFFFFF#32, 0x0000A00C#32⟩, by decide, rfl,
    (by decide : mmioWord 2#2 true (Machine.regOffset .ladr) &&& 0xFFFFFFFF#32 = 0x0000A00C#32)⟩

theorem rdNptxpd : Statement .rdNptxpd := by
  intro _
  exact ⟨⟨"RD_NPTXPD", 0xFFFFFFFF#32, 0x00008018#32⟩, by decide, rfl,
    (by decide : mmioWord 2#2 false (Machine.regOffset .nptxpd) &&& 0xFFFFFFFF#32 = 0x00008018#32)⟩

theorem wrNptxpd (value : Word) : Statement (.wrNptxpd value) := by
  intro _
  exact ⟨⟨"WR_NPTXPD", 0xFFFFFFFF#32, 0x0000A018#32⟩, by decide, rfl,
    (by decide : mmioWord 2#2 true (Machine.regOffset .nptxpd) &&& 0xFFFFFFFF#32 = 0x0000A018#32)⟩

theorem rdRxpd : Statement .rdRxpd := by
  intro _
  exact ⟨⟨"RD_RXPD", 0xFFFFFFFF#32, 0x0000801C#32⟩, by decide, rfl,
    (by decide : mmioWord 2#2 false (Machine.regOffset .rxpd) &&& 0xFFFFFFFF#32 = 0x0000801C#32)⟩

theorem wrRxpd (value : Word) : Statement (.wrRxpd value) := by
  intro _
  exact ⟨⟨"WR_RXPD", 0xFFFFFFFF#32, 0x0000A01C#32⟩, by decide, rfl,
    (by decide : mmioWord 2#2 true (Machine.regOffset .rxpd) &&& 0xFFFFFFFF#32 = 0x0000A01C#32)⟩

theorem rdNptxrBadr : Statement .rdNptxrBadr := by
  intro _
  exact ⟨⟨"RD_NPTXR_BADR", 0xFFFFFFFF#32, 0x00008020#32⟩, by decide, rfl,
    (by decide : mmioWord 2#2 false (Machine.regOffset .nptxrBadr) &&& 0xFFFFFFFF#32 = 0x00008020#32)⟩

theorem wrNptxrBadr (value : Word) : Statement (.wrNptxrBadr value) := by
  intro _
  exact ⟨⟨"WR_NPTXR_BADR", 0xFFFFFFFF#32, 0x0000A020#32⟩, by decide, rfl,
    (by decide : mmioWord 2#2 true (Machine.regOffset .nptxrBadr) &&& 0xFFFFFFFF#32 = 0x0000A020#32)⟩

theorem rdRxrBadr : Statement .rdRxrBadr := by
  intro _
  exact ⟨⟨"RD_RXR_BADR", 0xFFFFFFFF#32, 0x00008024#32⟩, by decide, rfl,
    (by decide : mmioWord 2#2 false (Machine.regOffset .rxrBadr) &&& 0xFFFFFFFF#32 = 0x00008024#32)⟩

theorem wrRxrBadr (value : Word) : Statement (.wrRxrBadr value) := by
  intro _
  exact ⟨⟨"WR_RXR_BADR", 0xFFFFFFFF#32, 0x0000A024#32⟩, by decide, rfl,
    (by decide : mmioWord 2#2 true (Machine.regOffset .rxrBadr) &&& 0xFFFFFFFF#32 = 0x0000A024#32)⟩

theorem rdAptc : Statement .rdAptc := by
  intro _
  exact ⟨⟨"RD_APTC", 0xFFFFFFFF#32, 0x00008034#32⟩, by decide, rfl,
    (by decide : mmioWord 2#2 false (Machine.regOffset .aptc) &&& 0xFFFFFFFF#32 = 0x00008034#32)⟩

theorem wrAptc (value : Word) : Statement (.wrAptc value) := by
  intro _
  exact ⟨⟨"WR_APTC", 0xFFFFFFFF#32, 0x0000A034#32⟩, by decide, rfl,
    (by decide : mmioWord 2#2 true (Machine.regOffset .aptc) &&& 0xFFFFFFFF#32 = 0x0000A034#32)⟩

theorem rdRbsr : Statement .rdRbsr := by
  intro _
  exact ⟨⟨"RD_RBSR", 0xFFFFFFFF#32, 0x0000804C#32⟩, by decide, rfl,
    (by decide : mmioWord 2#2 false (Machine.regOffset .rbsr) &&& 0xFFFFFFFF#32 = 0x0000804C#32)⟩

theorem wrRbsr (value : Word) : Statement (.wrRbsr value) := by
  intro _
  exact ⟨⟨"WR_RBSR", 0xFFFFFFFF#32, 0x0000A04C#32⟩, by decide, rfl,
    (by decide : mmioWord 2#2 true (Machine.regOffset .rbsr) &&& 0xFFFFFFFF#32 = 0x0000A04C#32)⟩

theorem rdMaccr : Statement .rdMaccr := by
  intro _
  exact ⟨⟨"RD_MACCR", 0xFFFFFFFF#32, 0x00008050#32⟩, by decide, rfl,
    (by decide : mmioWord 2#2 false (Machine.regOffset .maccr) &&& 0xFFFFFFFF#32 = 0x00008050#32)⟩

theorem wrMaccr (value : Word) : Statement (.wrMaccr value) := by
  intro _
  exact ⟨⟨"WR_MACCR", 0xFFFFFFFF#32, 0x0000A050#32⟩, by decide, rfl,
    (by decide : mmioWord 2#2 true (Machine.regOffset .maccr) &&& 0xFFFFFFFF#32 = 0x0000A050#32)⟩

theorem rdPhycr : Statement .rdPhycr := by
  intro _
  exact ⟨⟨"RD_PHYCR", 0xFFFFFFFF#32, 0x00008060#32⟩, by decide, rfl,
    (by decide : mmioWord 2#2 false (Machine.regOffset .phycr) &&& 0xFFFFFFFF#32 = 0x00008060#32)⟩

theorem wrPhycr (value : Word) : Statement (.wrPhycr value) := by
  intro _
  exact ⟨⟨"WR_PHYCR", 0xFFFFFFFF#32, 0x0000A060#32⟩, by decide, rfl,
    (by decide : mmioWord 2#2 true (Machine.regOffset .phycr) &&& 0xFFFFFFFF#32 = 0x0000A060#32)⟩

theorem rdPhydata : Statement .rdPhydata := by
  intro _
  exact ⟨⟨"RD_PHYDATA", 0xFFFFFFFF#32, 0x00008064#32⟩, by decide, rfl,
    (by decide : mmioWord 2#2 false (Machine.regOffset .phydata) &&& 0xFFFFFFFF#32 = 0x00008064#32)⟩

theorem wrPhydata (value : Word) : Statement (.wrPhydata value) := by
  intro _
  exact ⟨⟨"WR_PHYDATA", 0xFFFFFFFF#32, 0x0000A064#32⟩, by decide, rfl,
    (by decide : mmioWord 2#2 true (Machine.regOffset .phydata) &&& 0xFFFFFFFF#32 = 0x0000A064#32)⟩

theorem hostDeliver (frame : List Byte) : Statement (.hostDeliver frame) := by
  intro _
  exact ⟨⟨"HOST_DELIVER", 0xFFFFFFFF#32, 0x80000000#32⟩, by decide, rfl,
    (by decide : hostWord 0#4 &&& 0xFFFFFFFF#32 = 0x80000000#32)⟩

theorem hostLink (up : Bool) : Statement (.hostLink up) := by
  intro _
  exact ⟨⟨"HOST_LINK", 0xFFFFFFFF#32, 0x80000001#32⟩, by decide, rfl,
    (by decide : hostWord 1#4 &&& 0xFFFFFFFF#32 = 0x80000001#32)⟩

theorem hostReset : Statement .hostReset := by
  intro _
  exact ⟨⟨"HOST_RESET", 0xFFFFFFFF#32, 0x80000002#32⟩, by decide, rfl,
    (by decide : hostWord 2#4 &&& 0xFFFFFFFF#32 = 0x80000002#32)⟩

theorem hostCanReceive : Statement .hostCanReceive := by
  intro _
  exact ⟨⟨"HOST_CAN_RECEIVE", 0xFFFFFFFF#32, 0x80000003#32⟩, by decide, rfl,
    (by decide : hostWord 3#4 &&& 0xFFFFFFFF#32 = 0x80000003#32)⟩

theorem badAccessRdB (off : Offset) : Statement (.badAccessRdB off) := by
  intro _
  exact ⟨⟨"BAD_ACCESS_RD_B", 0xFFFFE000#32, 0x00000000#32⟩, by decide, rfl, access_word 0#2 false off⟩

theorem badAccessRdH (off : Offset) : Statement (.badAccessRdH off) := by
  intro _
  exact ⟨⟨"BAD_ACCESS_RD_H", 0xFFFFE000#32, 0x00004000#32⟩, by decide, rfl, access_word 1#2 false off⟩

theorem badAccessRdD (off : Offset) : Statement (.badAccessRdD off) := by
  intro _
  exact ⟨⟨"BAD_ACCESS_RD_D", 0xFFFFE000#32, 0x0000C000#32⟩, by decide, rfl, access_word 3#2 false off⟩

theorem badAccessRdMis1 (off : Offset) : Statement (.badAccessRdMis1 off) := by
  intro h
  have ho : Machine.offLow off = 1#2 := by simpa [Instr.wellFormed] using h
  exact ⟨⟨"BAD_ACCESS_RD_MIS1", 0xFFFFE003#32, 0x00008001#32⟩, by decide, rfl, aligned_word false ho⟩

theorem badAccessRdMis2 (off : Offset) : Statement (.badAccessRdMis2 off) := by
  intro h
  have ho : Machine.offLow off = 2#2 := by simpa [Instr.wellFormed] using h
  exact ⟨⟨"BAD_ACCESS_RD_MIS2", 0xFFFFE003#32, 0x00008002#32⟩, by decide, rfl, aligned_word false ho⟩

theorem badAccessRdMis3 (off : Offset) : Statement (.badAccessRdMis3 off) := by
  intro h
  have ho : Machine.offLow off = 3#2 := by simpa [Instr.wellFormed] using h
  exact ⟨⟨"BAD_ACCESS_RD_MIS3", 0xFFFFE003#32, 0x00008003#32⟩, by decide, rfl, aligned_word false ho⟩

theorem badAccessWrB (off : Offset) (value : Byte) : Statement (.badAccessWrB off value) := by
  intro _
  exact ⟨⟨"BAD_ACCESS_WR_B", 0xFFFFE000#32, 0x00002000#32⟩, by decide, rfl, access_word 0#2 true off⟩

theorem badAccessWrH (off : Offset) (value : Half) : Statement (.badAccessWrH off value) := by
  intro _
  exact ⟨⟨"BAD_ACCESS_WR_H", 0xFFFFE000#32, 0x00006000#32⟩, by decide, rfl, access_word 1#2 true off⟩

theorem badAccessWrD (off : Offset) (value : DWord) : Statement (.badAccessWrD off value) := by
  intro _
  exact ⟨⟨"BAD_ACCESS_WR_D", 0xFFFFE000#32, 0x0000E000#32⟩, by decide, rfl, access_word 3#2 true off⟩

theorem badAccessWrMis1 (off : Offset) (value : Word) : Statement (.badAccessWrMis1 off value) := by
  intro h
  have ho : Machine.offLow off = 1#2 := by simpa [Instr.wellFormed] using h
  exact ⟨⟨"BAD_ACCESS_WR_MIS1", 0xFFFFE003#32, 0x0000A001#32⟩, by decide, rfl, aligned_word true ho⟩

theorem badAccessWrMis2 (off : Offset) (value : Word) : Statement (.badAccessWrMis2 off value) := by
  intro h
  have ho : Machine.offLow off = 2#2 := by simpa [Instr.wellFormed] using h
  exact ⟨⟨"BAD_ACCESS_WR_MIS2", 0xFFFFE003#32, 0x0000A002#32⟩, by decide, rfl, aligned_word true ho⟩

theorem badAccessWrMis3 (off : Offset) (value : Word) : Statement (.badAccessWrMis3 off value) := by
  intro h
  have ho : Machine.offLow off = 3#2 := by simpa [Instr.wellFormed] using h
  exact ⟨⟨"BAD_ACCESS_WR_MIS3", 0xFFFFE003#32, 0x0000A003#32⟩, by decide, rfl, aligned_word true ho⟩

theorem rdUnmapped (off : Offset) : Statement (.rdUnmapped off) := by
  intro h
  have ho : Machine.offLow off = 0#2 := by simpa using (Bool.and_eq_true_iff.mp h).1
  exact ⟨⟨"RD_UNMAPPED", 0xFFFFE003#32, 0x00008000#32⟩, by decide, rfl, aligned_word false ho⟩

theorem wrUnmapped (off : Offset) (value : Word) : Statement (.wrUnmapped off value) := by
  intro h
  have ho : Machine.offLow off = 0#2 := by simpa using (Bool.and_eq_true_iff.mp h).1
  exact ⟨⟨"WR_UNMAPPED", 0xFFFFE003#32, 0x0000A000#32⟩, by decide, rfl, aligned_word true ho⟩

end Sys2Proof.Laws.WordFits
end

