-- ==== Sys2Proof/Tests/Slice0.lean ====
section
/-! SUPPORT. Tests: expected values are the spec's own (95_test_vectors.md, or the rule named). Then, for every statement
with hypotheses, a concrete case that meets all of them. -/

namespace Sys2Proof.Tests

open Sys2Proof.Machine Sys2Proof.Claims

/-! ### The instance and small states of 95_test_vectors.md section 0 -/

def demoParams : Params where
  variant     := .aspeed
  base        := 0x1E660000#32
  macAddrInit := ⟨0x52#8, 0x54#8, 0x00#8, 0x12#8, 0x34#8, 0x56#8⟩
  linkInit    := true
  phyId1      := 0x001C#16
  phyId2      := 0xC915#16
  fcs         := .ieee
  bus         := { holes := [], fill := .zero }

/-- Power-on of that instance. -/
def on : State := State.powerOn demoParams

/-- `desc a = {w0, w1, w2, w3}`. -/
def put (a w0 w1 w2 w3 : Word) (s : State) : State := guestStore a (bytesOfDesc ⟨w0, w1, w2, w3⟩) s

/-- `Fseq(n)`. -/
def fseq (n : Nat) : List Byte := (List.range n).map (BitVec.ofNat 8)

/-- `Faa10` and `Fff5`. -/
def faa10 : List Byte := List.replicate 10 0xAA#8
def fff5 : List Byte := List.replicate 5 0xFF#8

/-- The ring of section 4, TXDMA_EN = 1. -/
def txOn : State := { on with txBase := 0x1000#32, txCur := 0x1000#32, maccr := 0x1#32 }

/-- The ring of section 5, RXDMA_EN = 1, a free descriptor found. -/
def rxOn (rbsr : BitVec 14) : State :=
  { on with rxBase := 0x3000#32, rxCur := 0x3000#32, rbsr := rbsr, maccr := 0x2#32, rxEnabled := true }

/-- One operation answers a next state with a property. -/
def after (i : Instr) (s : State) (p : State → Bool) : Bool :=
  match exec i s with
  | .next t => p t
  | _ => false

/-- Word 0 of the descriptor at an address. -/
def word0 (s : State) (a : Word) : Word := (descAt s a).w0

/-! ### Ill-formed terms are refused -/

theorem test_wf_rd_mis1 : Instr.wellFormed (.badAccessRdMis1 0x12#13) = false := by decide
theorem test_wf_rd_mis2 : Instr.wellFormed (.badAccessRdMis2 0x13#13) = false := by decide
theorem test_wf_rd_mis3 : Instr.wellFormed (.badAccessRdMis3 0x10#13) = false := by decide
theorem test_wf_wr_mis1 : Instr.wellFormed (.badAccessWrMis1 0x12#13 0#32) = false := by decide
theorem test_wf_wr_mis2 : Instr.wellFormed (.badAccessWrMis2 0x13#13 0#32) = false := by decide
theorem test_wf_wr_mis3 : Instr.wellFormed (.badAccessWrMis3 0x10#13 0#32) = false := by decide
theorem test_wf_rd_unmapped_low : Instr.wellFormed (.rdUnmapped 0x31#13) = false := by decide
theorem test_wf_rd_unmapped_listed : Instr.wellFormed (.rdUnmapped 0x50#13) = false := by decide
theorem test_wf_wr_unmapped_low : Instr.wellFormed (.wrUnmapped 0x31#13 0#32) = false := by decide
theorem test_wf_wr_unmapped_listed : Instr.wellFormed (.wrUnmapped 0x64#13 0#32) = false := by decide

/-! ### Decoding: words written out from R60, R62, R63, R81 -/

/-- RD_MACCR bit by bit: C = 0, zeros [30:16], SZ = 10, D = 0, OFF = 0x50. -/
theorem test_word_rd_maccr : decodeTableWord 32 0b00000000000000001000000001010000 = some .rdMaccr := by decide
/-- WR_NPTXPD bit by bit: SZ = 10, D = 1, OFF = 0x18. -/
theorem test_word_wr_nptxpd : decodeTableWord 32 0b00000000000000001010000000011000 = some (.wrNptxpd 0#32) := by decide
/-- HOST_CAN_RECEIVE bit by bit: C = 1, zeros [30:4], EV = 3. -/
theorem test_word_can_receive : decodeTableWord 32 0b10000000000000000000000000000011 = some .hostCanReceive := by decide
/-- BAD_ACCESS_WR_H bit by bit: SZ = 01, D = 1, OFF = 4. -/
theorem test_word_wr_h : decodeTableWord 32 0b00000000000000000110000000000100 = some (.badAccessWrH 4#13 0#16) := by decide
/-- RD_UNMAPPED bit by bit: SZ = 10, D = 0, OFF = 0x30. -/
theorem test_word_rd_unmapped : decodeTableWord 32 0b00000000000000001000000000110000 = some (.rdUnmapped 0x30#13) := by
  decide

theorem test_words_reads_low :
    [0x8000, 0x8004, 0x8008, 0x800C, 0x8018, 0x801C].map (decodeTableWord 32) =
      [some .rdIsr, some .rdIer, some .rdMadr, some .rdLadr, some .rdNptxpd, some .rdRxpd] := by decide

theorem test_words_reads_high :
    [0x8020, 0x8024, 0x8034, 0x804C, 0x8050, 0x8060, 0x8064].map (decodeTableWord 32) =
      [some .rdNptxrBadr, some .rdRxrBadr, some .rdAptc, some .rdRbsr, some .rdMaccr, some .rdPhycr,
       some .rdPhydata] := by decide

theorem test_words_writes_low :
    [0xA000, 0xA004, 0xA008, 0xA00C, 0xA018, 0xA01C].map (decodeTableWord 32) =
      [some (.wrIsr 0), some (.wrIer 0), some (.wrMadr 0), some (.wrLadr 0), some (.wrNptxpd 0), some (.wrRxpd 0)] := by
  decide

theorem test_words_writes_high :
    [0xA020, 0xA024, 0xA034, 0xA04C, 0xA050, 0xA060, 0xA064].map (decodeTableWord 32) =
      [some (.wrNptxrBadr 0), some (.wrRxrBadr 0), some (.wrAptc 0), some (.wrRbsr 0), some (.wrMaccr 0),
       some (.wrPhycr 0), some (.wrPhydata 0)] := by decide

theorem test_words_host :
    [0x80000000, 0x80000001, 0x80000002, 0x80000003].map (decodeTableWord 32) =
      [some (.hostDeliver []), some (.hostLink false), some .hostReset, some .hostCanReceive] := by decide

theorem test_words_invalid_reads :
    [0x0000, 0x5FFF, 0xC000, 0x8001, 0x8002, 0x9FFF].map (decodeTableWord 32) =
      [some (.badAccessRdB 0), some (.badAccessRdH 0x1FFF), some (.badAccessRdD 0), some (.badAccessRdMis1 1),
       some (.badAccessRdMis2 2), some (.badAccessRdMis3 0x1FFF)] := by decide

theorem test_words_invalid_writes :
    [0x2018, 0x6004, 0xFFFF, 0xA001, 0xA002, 0xBFFF].map (decodeTableWord 32) =
      [some (.badAccessWrB 0x18 0), some (.badAccessWrH 4 0), some (.badAccessWrD 0x1FFF 0), some (.badAccessWrMis1 1 0),
       some (.badAccessWrMis2 2 0), some (.badAccessWrMis3 0x1FFF 0)] := by decide

theorem test_words_unmapped :
    [0x8030, 0x9FFC, 0xA030, 0xBFFC].map (decodeTableWord 32) =
      [some (.rdUnmapped 0x30), some (.rdUnmapped 0x1FFC), some (.wrUnmapped 0x30 0), some (.wrUnmapped 0x1FFC 0)] := by
  decide

/-- Operands reach the operation: a write's value, a frame, a link state. -/
theorem test_operands :
    decode ⟨0xA060#32, 0x04200000#64, [], false⟩ = .ok (.wrPhycr 0x04200000#32) ∧
    decode ⟨0x80000000#32, 0#64, [1#8, 2#8], false⟩ = .ok (.hostDeliver [1#8, 2#8]) ∧
    decode ⟨0x80000001#32, 0#64, [], true⟩ = .ok (.hostLink true) := by decide

/-- Reserved words (R81). -/
theorem test_words_reserved :
    [0x00010000, 0x00018000, 0x7FFFFFFF, 0x80000004, 0x8000000F, 0x80000010, 0xFFFFFFFF].map (decodeTableWord 32) =
      List.replicate 7 none := by decide

/-! ### Registers (section 3) -/

theorem test_rd_madr : after .rdMadr on (fun t => t.response == .rd32 0x5254#32) = true := by decide
theorem test_rd_ladr : after .rdLadr on (fun t => t.response == .rd32 0x123456#32) = true := by decide
theorem test_wr_madr : after (.wrMadr 0xFFFF0A0B#32) on (fun t => t.mac.b0 == 0x0A#8 && t.mac.b1 == 0x0B#8 &&
    t.mac.b2 == 0#8) = true := by decide
theorem test_wr_ladr : after (.wrLadr 0x11223344#32) on (fun t =>
    t.mac == ⟨0x52#8, 0x54#8, 0x11#8, 0x22#8, 0x33#8, 0x44#8⟩) = true := by decide
theorem test_wr_isr : after (.wrIsr 0x05#32) { on with isr := 0x47#32 } (fun t => t.isr == 0x42#32) = true := by decide
/-- T-REG-5: one set_level(true). -/
theorem test_wr_ier_raises : after (.wrIer 0x40#32) { on with isr := 0x40#32 } (fun t =>
    t.irqLevel && t.irqChanges == [true]) = true := by decide
/-- T-REG-6. -/
theorem test_wr_ier_lowers : after (.wrIer 0xFFFFFC00#32) { on with isr := 0x40#32, ier := 0x40#32, irqLevel := true }
    (fun t => !t.irqLevel && t.irqChanges == [false] && t.ier == 0xFFFFFC00#32) = true := by decide
theorem test_wr_rbsr : after (.wrRbsr 0xFFFFFFFF#32) on (fun t => t.rbsr == 0x3FFF#14) = true := by decide
theorem test_rd_rbsr : after .rdRbsr on (fun t => t.response == .rd32 0x640#32) = true := by decide
theorem test_rd_aptc : after .rdAptc on (fun t => t.response == .rd32 1#32) = true := by decide
theorem test_wr_phydata : after (.wrPhydata 0xABCD1234#32) on (fun t => t.phydata == 0x1234#32) = true := by decide
/-- R85, R87, R97, R99, R101, R105, R107, R109: each read answers its own register. -/
theorem test_rd_rest :
    [Instr.rdIsr, .rdIer, .rdNptxrBadr, .rdRxrBadr, .rdAptc, .rdMaccr, .rdPhycr, .rdPhydata].map (fun i =>
      after i { on with isr := 1#32, ier := 2#32, txBase := 0x30#32, rxBase := 0x40#32, aptc := 5#32, maccr := 6#32,
                        phycr := 7#32, phydata := 8#32 } (fun t =>
        t.response == .rd32 (match i with
          | .rdIsr => 1#32 | .rdIer => 2#32 | .rdNptxrBadr => 0x30#32 | .rdRxrBadr => 0x40#32 | .rdAptc => 5#32
          | .rdMaccr => 6#32 | .rdPhycr => 7#32 | _ => 8#32) && t.isr == 1#32)) = List.replicate 8 true := by decide
/-- T-REG-7 and T-REG-24: no diagnostic, no scan. -/
theorem test_poll_demand :
    after .rdNptxpd on (fun t => t.response == .rd32 0#32 && t.diagTrace == []) = true ∧
    after .rdRxpd on (fun t => t.response == .rd32 0#32 && t.diagTrace == []) = true ∧
    after (.wrRxpd 1#32) on (fun t => t == on) = true := by decide
/-- T-REG-9. -/
theorem test_wr_aptc : after (.wrAptc 0x12345678#32) on (fun t => t == { on with aptc := 0x12345678#32 }) = true := by
  decide
/-- T-REG-11. -/
theorem test_wr_nptxr_badr : after (.wrNptxrBadr 0x1000#32) on (fun t =>
    t.txBase == 0x1000#32 && t.txCur == 0x1000#32 && t.faulted == none) = true := by decide
/-- T-REG-12. -/
theorem test_wr_rxr_badr_misaligned : after (.wrRxrBadr 0x3008#32) on (fun t =>
    t.faulted == some (.ringBaseMisaligned 0x24#13 0x3008#32) && t.rxBase == 0#32) = true := by decide
/-- T-REG-14, the first write: the scan finds the free descriptor. -/
theorem test_wr_maccr_scan : after (.wrMaccr 0x2#32) (put 0#32 0xC0000000#32 0#32 0#32 0#32 on) (fun t =>
    t.rxEnabled && t.maccr == 0x2#32 && t.rxCur == 0#32) = true := by decide +kernel
/-- T-REG-15. -/
theorem test_wr_maccr_disables : after (.wrMaccr 0x1#32) { on with maccr := 0x2#32, rxEnabled := true } (fun t =>
    !t.rxEnabled && t.maccr == 0x1#32) = true := by decide
/-- T-REG-16, T-REG-17. -/
theorem test_invalid_reads :
    after (.badAccessRdH 0#13) { on with isr := 0x50#32 } (fun t =>
      t.response == .rd16 0#16 && t.diagTrace == [.badAccess] && t.isr == 0x50#32) = true ∧
    after (.badAccessRdMis2 2#13) on (fun t => t.response == .rd32 0#32 && t.diagTrace == [.badAccess]) = true := by
  decide
/-- T-REG-18: no kick. -/
theorem test_invalid_write : after (.badAccessWrB 0x18#13 1#8) { on with maccr := 1#32 } (fun t =>
    t.isr == 0#32 && t.diagTrace == [.badAccess]) = true := by decide
/-- T-REG-20, T-REG-21. -/
theorem test_unmapped :
    after (.rdUnmapped 0x30#13) on (fun t => t.response == .rd32 0#32 && t.diagTrace == [.unmapped]) = true ∧
    after (.wrUnmapped 0x30#13 0xFF#32) on (fun t => t.response == .nothing && t.diagTrace == [.unmapped]) = true := by
  decide
/-- T-REG-22, T-PHY-1. -/
theorem test_wr_phycr_read : after (.wrPhycr 0x04200000#32) on (fun t =>
    t.phycr == 0x00200000#32 && t.phydata == 0x782D0000#32) = true := by decide
/-- T-PHY-13: both flags. -/
theorem test_wr_phycr_both : after (.wrPhycr 0x0FC00000#32) { on with phydata := 0x10#32 } (fun t =>
    t.phyIntMask == 0x10#8 && t.phycr == 0x07C00000#32 && t.isr == 0#32) = true := by decide
/-- T-PHY-4 and the BMCR mask of R164. -/
theorem test_mdio_write_bmcr : after (.wrPhycr 0x08000000#32) { on with phydata := 0x1200#32 } (fun t =>
    t.phyControl == 0x1000#16 && t.phyStatus == 0x782D#16) = true := by decide
/-- T-PHY-6: the PHY reset bit. -/
theorem test_mdio_write_reset : after (.wrPhycr 0x08000000#32)
    { on with phydata := 0x8000#32, phyIntMask := 0xFF#8, isr := 0x200#32 }
    (fun t => t.isr == 0#32 && t.phyIntMask == 0#8 && t.phyInt == 0xC0#8) = true := by decide
/-- T-PHY-7. -/
theorem test_mdio_write_anar : after (.wrPhycr 0x08800000#32) { on with phydata := 0xFFFF#32 } (fun t =>
    t.phyAdvertise == 0x2DFF#16) = true := by decide
/-- T-PHY-5, the link part. -/
theorem test_link_down : after (.hostLink false) on (fun t =>
    !t.linkUp && t.phyStatus == 0x7809#16 && t.phyInt == 0xD0#8) = true := by decide
/-- T-RST-2: a reset with the link down; T-IRQ-4: one set_level(false). -/
theorem test_host_reset : after .hostReset
    { on with linkUp := false, isr := 0x40#32, ier := 0x40#32, irqLevel := true, aptc := 7#32 }
    (fun t => t.phyStatus == 0x7809#16 && t.phyInt == 0x10#8 && t.aptc == 1#32 && t.rbsr == 0x640#14 &&
      t.irqChanges == [false]) = true := by decide
/-- T-RST-1: the other bits of the value are discarded. -/
theorem test_software_reset : after (.wrMaccr 0x80000003#32) { on with ier := 1#32, mac := default } (fun t =>
    t == on) = true := by decide
theorem test_can_receive : after .hostCanReceive { on with rxEnabled := true } (fun t =>
    t.response == .canReceive true) = true := by decide

/-! ### Memory, codec and the CRC (sections 0 and 2) -/

theorem test_crc_check_value :
    fcsIeee [0x31#8, 0x32#8, 0x33#8, 0x34#8, 0x35#8, 0x36#8, 0x37#8, 0x38#8, 0x39#8] = 0xCBF43926#32 := by
  decide +kernel
theorem test_trailer_bytes : trailer .ieee faa10 = [0x85#8, 0x07#8, 0xEE#8, 0xE2#8] := by decide +kernel
/-- T-MEM-1. -/
theorem test_desc_bytes : bytesOfDesc ⟨0xDEADBEEF#32, 0x01234567#32, 0x89ABCDEF#32, 0x00002000#32⟩ =
    [0xEF#8, 0xBE#8, 0xAD#8, 0xDE#8, 0x67#8, 0x45#8, 0x23#8, 0x01#8, 0xEF#8, 0xCD#8, 0xAB#8, 0x89#8,
     0x00#8, 0x20#8, 0x00#8, 0x00#8] := by decide
/-- Writing the byte an unlisted address reads as lists nothing (log 8). -/
theorem test_canonical_write : Memory.write (Memory.write [] 5 7#8) 5 0#8 = [] ∧
    Memory.write (Memory.write [] 5 7#8) 3 9#8 = [(3, 9#8), (5, 7#8)] := by decide

/-! ### Transmit (section 4) -/

/-- T-TX-1, its 60 bytes cut to 6. -/
theorem test_tx_one_descriptor : after (.wrNptxpd 0#32)
    (put 0x1000#32 0xB0000006#32 0x80000000#32 0#32 0x2000#32 (put 0x1010#32 0x40000000#32 0#32 0#32 0#32
      (guestStore 0x2000#32 (fseq 6) txOn)))
    (fun t => t.txOut == [fseq 6] && word0 t 0x1000#32 == 0x30000006#32 && t.isr == 0x50#32 && t.txCur == 0x1010#32)
      = true := by decide +kernel
/-- T-TX-6, the locate skip. -/
theorem test_tx_locate_skips : after (.wrNptxpd 0#32)
    (put 0x1000#32 0x8000000A#32 0#32 0#32 0x2000#32 (put 0x1010#32 0xB0000004#32 0#32 0#32 0x2100#32 txOn))
    (fun t => t.txOut == [List.replicate 4 0#8] && word0 t 0x1000#32 == 0x8000000A#32 && t.txCur == 0x1020#32)
      = true := by decide +kernel

/-! ### Receive (section 5) -/

/-- T-RX-9. -/
theorem test_rx_write_back : after (.hostDeliver faa10)
    (put 0x3000#32 0xC00F7000#32 0x12345678#32 0xCAFEBABE#32 0x4000#32 (rxOn 64#14))
    (fun t => descAt t 0x3000#32 == ⟨0x7000000E#32, 0x12345678#32, 0xCAFEBABE#32, 0x4000#32⟩ &&
      busReadBytes t 0x400A 4 == [0x85#8, 0x07#8, 0xEE#8, 0xE2#8] && t.isr == 1#32 && !t.rxEnabled) = true := by
  decide +kernel
/-- T-RX-8, the remainder dropped. -/
theorem test_rx_remainder_dropped : after (.hostDeliver faa10)
    (put 0x3000#32 0x80000000#32 0#32 0#32 0x4000#32 (put 0x3010#32 0x40000000#32 0#32 0#32 0#32 (rxOn 8#14)))
    (fun t => word0 t 0x3000#32 == 0x20000008#32 && t.isr == 6#32 && t.rxCur == 0x3010#32 && !t.rxEnabled &&
      t.diagTrace == [.rxNoBuffer]) = true := by decide +kernel

/-! ### The hypotheses of the statements can be met -/

/-- Both variants of a TX ring of one owned first-and-last descriptor; the next place is not owned. -/
def txRing : State := put 0x1000#32 0xB0000004#32 0x80000000#32 0#32 0x2000#32 txOn
/-- Two owned descriptors that hold one frame. -/
def txPair : State :=
  put 0x1000#32 0xA0000004#32 0#32 0#32 0x2000#32 (put 0x1010#32 0xD0000008#32 0x40000000#32 0#32 0x2100#32 txOn)
/-- A free RX descriptor that ends its ring. -/
def rxRing : State := put 0x3000#32 0xC0000000#32 0#32 0#32 0x4000#32 (rxOn 64#14)
/-- Two free RX descriptors. -/
def rxPair : State :=
  put 0x3000#32 0x80000000#32 0#32 0#32 0x4000#32 (put 0x3010#32 0xC0000000#32 0#32 0#32 0x4100#32 (rxOn 8#14))
/-- An RX ring the guest took back: its one descriptor is not free and ends the ring. -/
def rxTaken : State := put 0x3000#32 0x40000000#32 0#32 0#32 0x4000#32 (rxOn 64#14)

theorem witness_DecodeOfEncodeIsTheOperation :
    Instr.wellFormed (.rdUnmapped 0x10#13) = true ∧ Instr.wellFormed (.wrUnmapped 0x1FFC#13 7#32) = true ∧
    Instr.wellFormed (.badAccessRdMis1 1#13) = true ∧ Instr.wellFormed (.badAccessWrMis3 0x1FFF#13 7#32) = true := by
  decide

theorem witness_DecodedWordIsTheEncodedWord :
    decode ⟨0x0000BFFC#32, 7#64, [], false⟩ = .ok (.wrUnmapped 0x1FFC#13 7#32) ∧
    decode ⟨0x80000003#32, 0#64, [], false⟩ = .ok .hostCanReceive := by decide

theorem witness_ReservedWordsAreRefused :
    on.faulted = none ∧
    ([0x00010000#32, 0x7FFFFFFF#32].all fun w => !w.getLsbD 31 && decide (0x10000 ≤ w.toNat)) = true ∧
    ([0x80000004#32, 0xFFFFFFFF#32].all fun w => w.getLsbD 31 && decide (0x80000004 ≤ w.toNat)) = true ∧
    (presentFirst ⟨0x80000004#32, 0#64, [], false⟩ on).pending = [.op ⟨0x80000004#32, 0#64, [], false⟩] := by decide

theorem witness_StepRunsTheDecodedOperation :
    (on.withFetchWord 32 0x8050).faulted = none ∧
    (on.withFetchWord 32 0x8050).pending = .op (bareRequest 32 0x8050) :: [] ∧
    decode (bareRequest 32 0x8050) = .ok .rdMaccr := by decide

theorem witness_StepWaitsOrLetsTheGuestStore :
    on.faulted = none ∧ on.pending = [] ∧
    ({ on with pending := [.guestStore 4#32 [1#8]] } : State).pending = .guestStore 4#32 [1#8] :: [] := by decide

theorem witness_FaultedDeviceHasNoStep :
    ({ on with faulted := some (.addrWrap 0xFFFFFFFE 4) } : State).faulted = some (.addrWrap 0xFFFFFFFE 4) := by decide

theorem witness_RegisterReadsAnswerTheirValue :
    on.faulted = none ∧ (0x00008000, .rdIsr, 0#32) ∈ registerReads on ∧
    (0x00008064, .rdPhydata, 0#32) ∈ registerReads on := by decide

theorem witness_StoringWritesStoreTheirField :
    on.faulted = none ∧ (0x0000A01C, .wrRxpd 5#32, on) ∈ storingWrites 5#32 on ∧
    (0x0000A034, .wrAptc 5#32, { on with aptc := 5#32 }) ∈ storingWrites 5#32 on := by decide

theorem witness_RingBaseWriteMovesTheCursor :
    on.faulted = none ∧ (0xFFFFFFF0#32).toNat % 16 = 0 ∧ (0#32).toNat % 16 = 0 ∧ (0xFFFFFFFF#32).toNat % 16 ≠ 0 ∧
    (1#32).toNat % 16 ≠ 0 := by decide

theorem witness_InvalidAccessIsLoggedAndIgnored :
    on.faulted = none ∧ (.badAccessRdB 0#13, .rd8 0#8) ∈ invalidAccesses 0#13 1#8 2#16 3#32 4#64 ∧
    (.badAccessWrMis3 0#13 3#32, .nothing) ∈ invalidAccesses 0#13 1#8 2#16 3#32 4#64 ∧
    ([0x0000#32, 0x7FFF#32, 0x8001#32, 0xBFFF#32, 0xC000#32, 0xFFFF#32].all fun w =>
      decide (w.toNat < 0x10000 ∧ (w.toNat / 0x4000 ≠ 2 ∨ w.toNat % 4 ≠ 0))) = true := by decide

theorem witness_UnmappedAccessIsLoggedAndIgnored :
    on.faulted = none ∧
    ([0x8010#32, 0x9FFC#32, 0xA010#32, 0xBFFC#32].all fun w =>
      decide (w.toNat < 0x10000 ∧ w.toNat / 0x4000 = 2 ∧ w.toNat % 4 = 0 ∧ w.toNat % 0x2000 ∉ listedOffsets)) = true := by
  decide

theorem witness_MaccrWriteWithoutTransitionStores :
    on.faulted = none ∧ (0x7FFFFFFD#32).getLsbD 31 = false ∧ (0x7FFFFFFD#32).getLsbD 1 = false ∧
    (rxOn 64#14).faulted = none ∧ (2#32).getLsbD 1 = true ∧ (rxOn 64#14).maccr.getLsbD 1 = true := by decide

/-- The scan passes one descriptor and finds the next one free. -/
def scanRing : State := put 0x10#32 0x80000000#32 0#32 0#32 0#32 on

theorem witness_RxDmaEnableScansForAFreeDescriptor :
    scanRing.faulted = none ∧ (2#32).getLsbD 31 = false ∧ (2#32).getLsbD 1 = true ∧ scanRing.maccr.getLsbD 1 = false ∧
    scanStops scanRing scanRing.rxCur 1 := by decide +kernel

/-- The last descriptor place of the address space, which reads as zeros. -/
def scanTop : State := { on with rxCur := 0xFFFFFFF0#32 }

theorem witness_EnableScanPastTheTopRaisesAddrWrap :
    scanTop.faulted = none ∧ (2#32).getLsbD 31 = false ∧ (2#32).getLsbD 1 = true ∧ scanTop.maccr.getLsbD 1 = false ∧
    scanTop.rxCur.toNat % 16 = 0 ∧
    (∀ k, scanTop.rxCur.toNat + 16 * k + 16 ≤ 2 ^ 32 →
      owned (placeAt scanTop scanTop.rxCur k) = false ∧ endOfRing scanTop (placeAt scanTop scanTop.rxCur k) = false) := by
  refine ⟨rfl, by decide, by decide, by decide, by decide, fun k hk => ?_⟩
  have h0 : k = 0 := by
    have : scanTop.rxCur.toNat = 4294967280 := rfl
    omega
  subst h0
  decide +kernel

theorem witness_DeviceResetGivesTheResetValues : on.faulted = none ∧ (0xFFFFFFFF#32).getLsbD 31 = true := by decide

theorem witness_SoftwareResetIsDeviceReset :
    (0x80000000#32).getLsbD 31 = true ∧ ∃ t, exec .hostReset on = .next t := ⟨by decide, _, rfl⟩

theorem witness_LinkEventRederivesThePhy : on.faulted = none := by decide

theorem witness_MdioReadReturnsThePhyRegister :
    on.faulted = none ∧ (0x04200000#32).getLsbD 27 = false ∧ ¬ noSuchReg (regad 0x04200000#32) ∧
    regad 0x04200000#32 ≠ 29 ∧ regad 0x07A00000#32 = 29 ∧ ¬ noSuchReg (regad 0x07C00000#32) ∧
    noSuchReg (regad 0x04A00000#32) ∧ noSuchReg (regad 0x07800000#32) ∧ noSuchReg (regad 0x07E00000#32) := by decide

theorem witness_MdioWriteStoresThePhyRegister :
    on.faulted = none ∧ (0x08000000#32).getLsbD 27 = true ∧ regad 0x08000000#32 = 0 ∧ on.phydata.getLsbD 15 = false ∧
    regad 0x08800000#32 = 4 ∧ regad 0x0BC00000#32 = 30 ∧ regad 0x08200000#32 = 1 ∧ regad 0x0BA00000#32 = 29 ∧
    noSuchReg (regad 0x08A00000#32) ∧ noSuchReg (regad 0x0B800000#32) ∧ noSuchReg (regad 0x0BE00000#32) := by decide

theorem witness_BmcrResetBitResetsOnlyThePhy :
    on.faulted = none ∧ (0x08000000#32).getLsbD 27 = true ∧ regad 0x08000000#32 = 0 ∧
    ({ on with phydata := 0x8000#32 } : State).phydata.getLsbD 15 = true := by decide

theorem witness_LineFollowsTheEnabledCauses :
    ∃ t, exec (.wrIer 0x40#32) { on with isr := 0x40#32 } = .next t ∧ t.faulted = none := ⟨_, rfl, rfl⟩

theorem witness_LineChangesAtMostOncePerOperation :
    ∃ t, exec (.wrIer 0x40#32) { on with isr := 0x40#32 } = .next t := ⟨_, rfl⟩

/-- Each way a cause bit can be cleared. -/
theorem witness_CauseBitsAreSticky :
    after (.wrIsr 0x40#32) { on with isr := 0x240#32 } (fun t => !t.isr.getLsbD 6 && t.isr.getLsbD 9) = true ∧
    after .hostReset { on with isr := 0x240#32 } (fun t => !t.isr.getLsbD 6) = true ∧
    after (.wrPhycr 0x07A00000#32) { on with isr := 0x240#32 } (fun t =>
      !t.isr.getLsbD 9 && t.isr.getLsbD 6 && t.phyInt &&& t.phyIntMask == 0#8) = true := by
  decide

/-- Each kind of operation that sets one. -/
theorem witness_CauseBitsAreSetOnlyByTheirEvents :
    on.isr = 0#32 ∧ after (.hostDeliver faa10) rxRing (fun t => t.isr.getLsbD 0) = true ∧
    after (.wrNptxpd 0#32) txRing (fun t => t.isr.getLsbD 4 && t.isr.getLsbD 6) = true ∧
    after (.hostLink true) { on with phyIntMask := 0x80#8 } (fun t => t.isr.getLsbD 9) = true := by decide +kernel

theorem witness_OnlyItsOwnOperationsChangeAComponent :
    (∃ t, exec (.wrIer 1#32) on = .next t) ∧
    after (.wrNptxrBadr 1#32) on (fun t => t.faulted == some (.ringBaseMisaligned 0x20#13 1#32)) = true :=
  ⟨⟨_, rfl⟩, by decide⟩

theorem witness_KickWithoutTxDmaDoesNothing : on.faulted = none ∧ on.maccr.getLsbD 0 = false := by decide

/-- The locate scan passes one descriptor and stops at one that ends the ring and is not owned. -/
def txEmpty : State := put 0x1010#32 0x40000000#32 0#32 0#32 0#32 txOn

theorem witness_KickStopsAtAnUnownedDescriptor :
    txEmpty.faulted = none ∧ txEmpty.maccr.getLsbD 0 = true ∧ txEmpty.txCur.toNat + 16 * 1 + 16 ≤ 2 ^ 32 ∧
    (∀ k < 1, locateSkips txEmpty (placeAt txEmpty txEmpty.txCur k)) ∧
    ¬ locateSkips txEmpty (placeAt txEmpty txEmpty.txCur 1) ∧ owned (placeAt txEmpty txEmpty.txCur 1) = false := by
  decide +kernel

theorem witness_KickSendsAOneDescriptorFrame :
    ∃ (d : Desc) (m : Memory) (c : Word), txRing.faulted = none ∧ txRing.maccr.getLsbD 0 = true ∧
      txRing.txCur.toNat + 16 ≤ 2 ^ 32 ∧ d = descAt txRing txRing.txCur ∧ owned d = true ∧ ¬ locateSkips txRing d ∧
      d.w0.getLsbD 28 = true ∧ sizeField d ≤ frameLimit txRing ∧ d.w3.toNat + sizeField d ≤ 2 ^ 32 ∧
      canAdvance txRing txRing.txCur d txRing.txBase ∧ c = nextPlace txRing txRing.txCur d txRing.txBase ∧
      m = withDesc txRing txRing.mem txRing.txCur (released d) ∧ owned (descAt { txRing with mem := m } c) = false :=
  ⟨descAt txRing txRing.txCur, withDesc txRing txRing.mem txRing.txCur (released (descAt txRing txRing.txCur)), 0x1010#32,
    by decide +kernel⟩

theorem witness_KickGathersATwoDescriptorFrame :
    ∃ (d e : Desc) (m m' : Memory) (c c' : Word), txPair.faulted = none ∧ txPair.maccr.getLsbD 0 = true ∧
      txPair.txCur.toNat + 16 ≤ 2 ^ 32 ∧ d = descAt txPair txPair.txCur ∧ owned d = true ∧ ¬ locateSkips txPair d ∧
      d.w0.getLsbD 28 = false ∧ d.w3.toNat + sizeField d ≤ 2 ^ 32 ∧ canAdvance txPair txPair.txCur d txPair.txBase ∧
      c = nextPlace txPair txPair.txCur d txPair.txBase ∧ m = withDesc txPair txPair.mem txPair.txCur (released d) ∧
      e = descAt { txPair with mem := m } c ∧ owned e = true ∧ e.w0.getLsbD 28 = true ∧
      sizeField d + sizeField e ≤ frameLimit txPair ∧ e.w3.toNat + sizeField e ≤ 2 ^ 32 ∧
      canAdvance txPair c e txPair.txBase ∧ c' = nextPlace txPair c e txPair.txBase ∧
      m' = withDesc txPair m c (released e) ∧ owned (descAt { txPair with mem := m' } c') = false :=
  ⟨descAt txPair 0x1000#32, descAt txPair 0x1010#32,
    withDesc txPair txPair.mem 0x1000#32 (released (descAt txPair 0x1000#32)),
    withDesc txPair (withDesc txPair txPair.mem 0x1000#32 (released (descAt txPair 0x1000#32))) 0x1010#32
      (released (descAt txPair 0x1010#32)),
    0x1010#32, 0x1000#32, by decide +kernel⟩

/-- The last buffer byte may be the last address, and the accumulator may be full. -/
theorem witness_TxVisitCopiesSendsAndHandsBack :
    sizeField ⟨0x90000004#32, 0#32, 0#32, 0xFFFFFFFC#32⟩ = 4 ∧ frameLimit txOn = 1522 ∧
    (0xFFFFFFFC#32).toNat + 4 ≤ 2 ^ 32 ∧ (0x1000#32).toNat + 16 < 2 ^ 32 ∧
    endOfRing txOn ⟨0x90000004#32, 0#32, 0#32, 0xFFFFFFFC#32⟩ = false := by decide

/-- A descriptor the locate scan skips though it is owned (T-TX-6), two frames (T-TX-4), one begun (T-TX-5), one not owned. -/
def txRun : State :=
  put 0x1000#32 0x80000004#32 0#32 0#32 0x2000#32 (put 0x1010#32 0xB0000004#32 0x80000000#32 0#32 0x2000#32
    (put 0x1020#32 0xB0000004#32 0#32 0#32 0x2100#32 (put 0x1030#32 0xA0000004#32 0#32 0#32 0x2000#32 txOn)))

theorem witness_KickVisitsDescriptorsInOrder :
    txRun.faulted = none ∧ txRun.maccr.getLsbD 0 = true ∧ locateStops txRun 1 ∧ (∀ k < 3, (walked txRun 1 k).movesOn) ∧
    (walked txRun 1 3).cur.toNat + 16 ≤ 2 ^ 32 ∧ owned (walked txRun 1 3).desc = false ∧
    (walked txRun 1 3).acc.length = 4 ∧ (walked txRun 1 3).st.txOut.length = 2 := by decide +kernel

/-- An owned descriptor in the last place of the address space. -/
def txTop (w0 w3 : Word) : State :=
  put 0xFFFFFFF0#32 w0 0#32 0#32 w3 { txOn with txBase := 0xFFFFFFF0#32, txCur := 0xFFFFFFF0#32 }

/-- A frame of one descriptor, then one whose second and last byte would lie at 2^32. -/
def txLateTop : State :=
  put 0x1000#32 0xB0000004#32 0#32 0#32 0x2000#32 (put 0x1010#32 0xB0000002#32 0#32 0#32 0xFFFFFFFF#32 txOn)

/-- T-TX-12; a copy cut to MAXF whose last byte would lie at 2^32; a later descriptor. -/
theorem witness_KickBufferPastTheTopRaisesAddrWrap :
    ((txTop 0xB0000004#32 0xFFFFFFFE#32).faulted = none ∧ (txTop 0xB0000004#32 0xFFFFFFFE#32).maccr.getLsbD 0 = true ∧
      locateStops (txTop 0xB0000004#32 0xFFFFFFFE#32) 0 ∧
      (walked (txTop 0xB0000004#32 0xFFFFFFFE#32) 0 0).cur.toNat + 16 ≤ 2 ^ 32 ∧
      owned (walked (txTop 0xB0000004#32 0xFFFFFFFE#32) 0 0).desc = true ∧
      2 ^ 32 < (walked (txTop 0xB0000004#32 0xFFFFFFFE#32) 0 0).desc.w3.toNat +
        (walked (txTop 0xB0000004#32 0xFFFFFFFE#32) 0 0).takes) ∧
    (locateStops (txTop 0xB0003FFF#32 0xFFFFFA0F#32) 0 ∧ (walked (txTop 0xB0003FFF#32 0xFFFFFA0F#32) 0 0).tooBig ∧
      (walked (txTop 0xB0003FFF#32 0xFFFFFA0F#32) 0 0).takes = 1522 ∧
      (walked (txTop 0xB0003FFF#32 0xFFFFFA0F#32) 0 0).desc.w3.toNat + 1522 = 2 ^ 32 + 1) ∧
    txLateTop.faulted = none ∧ txLateTop.maccr.getLsbD 0 = true ∧ locateStops txLateTop 0 ∧
    (∀ k < 1, (walked txLateTop 0 k).movesOn) ∧ (walked txLateTop 0 1).cur.toNat + 16 ≤ 2 ^ 32 ∧
    owned (walked txLateTop 0 1).desc = true ∧ (walked txLateTop 0 1).takes = 2 ∧
    (walked txLateTop 0 1).desc.w3.toNat + 2 = 2 ^ 32 + 1 := by decide +kernel

/-- A scan past the last place, which reads as zeros; a step from it, its buffer's last byte at the last address. -/
theorem witness_KickStepPastTheTopRaisesAddrWrap :
    ((txTop 0#32 0#32).faulted = none ∧ (txTop 0#32 0#32).maccr.getLsbD 0 = true ∧ (txTop 0#32 0#32).txCur.toNat % 16 = 0 ∧
      ∀ k, (txTop 0#32 0#32).txCur.toNat + 16 * k + 16 ≤ 2 ^ 32 →
        locateSkips (txTop 0#32 0#32) (placeAt (txTop 0#32 0#32) (txTop 0#32 0#32).txCur k)) ∧
    (txTop 0xB0000004#32 0xFFFFFFFC#32).faulted = none ∧ (txTop 0xB0000004#32 0xFFFFFFFC#32).maccr.getLsbD 0 = true ∧
    locateStops (txTop 0xB0000004#32 0xFFFFFFFC#32) 0 ∧ (walked (txTop 0xB0000004#32 0xFFFFFFFC#32) 0 0).copies ∧
    (walked (txTop 0xB0000004#32 0xFFFFFFFC#32) 0 0).desc.w3.toNat + 4 = 2 ^ 32 ∧
    (walked (txTop 0xB0000004#32 0xFFFFFFFC#32) 0 0).cur.toNat + 16 = 2 ^ 32 ∧
    endOfRing (txTop 0xB0000004#32 0xFFFFFFFC#32) (walked (txTop 0xB0000004#32 0xFFFFFFFC#32) 0 0).desc = false := by
  refine ⟨⟨rfl, by decide, by decide, fun k hk => ?_⟩, by decide +kernel⟩
  have h0 : k = 0 := by
    have : (txTop 0#32 0#32).txCur.toNat = 4294967280 := rfl
    omega
  subst h0
  decide +kernel

/-- The invariant holds of a ring that can send. -/
theorem txRing_inv : txRing.Inv where
  memCanonical := by decide +kernel
  memMapped := by decide +kernel
  txBaseAligned := by decide
  rxBaseAligned := by decide
  txCurAligned := by decide
  rxCurAligned := by decide
  isrReserved := by decide
  enabledDma := by decide
  noSwRst := by decide
  noMiiwr := by decide
  bmcrBits := by decide
  bmsrBits := by decide
  bmsrLink := by decide
  anarBits := by decide
  phyIntBits := by decide
  lineFollows := by decide

theorem witness_CompletedKickStopsAtAnUnownedDescriptor :
    txRing.maccr.getLsbD 0 = true ∧ after (.wrNptxpd 0#32) txRing (fun t => t.faulted == none) = true := by
  decide +kernel

theorem witness_EveryKickEnds :
    txRing.Inv ∧ txRing.faulted = none ∧ txRing.cfg.bus.fill = .zero := ⟨txRing_inv, by decide, by decide⟩

/-- The kick of this state makes one visit. -/
theorem witness_KickChangesOnlyOwnershipBits :
    txRing.Inv ∧ after (.wrNptxpd 0#32) txRing (fun t => t.mem == (walked txRing 0 1).st.mem) = true ∧
    locateStops txRing 0 ∧ (walked txRing 0 0).copies ∧ (walked txRing 0 0).cur = 0x1000#32 ∧
    busRead txRing 0x1003 = 0xB0#8 :=
  ⟨txRing_inv, by decide +kernel⟩

theorem witness_CanReceiveAnswersTheStoredFlag : on.faulted = none := by decide

theorem witness_DeliveryWhileNotEnabledIsDropped : on.faulted = none ∧ on.rxEnabled = false := by decide

theorem witness_StreamIsTheFrameAndItsTrailer :
    frameLimit on < 1519 + 4 ∧ ¬ frameLimit on < 1518 + 4 ∧ isBroadcast (List.replicate 6 0xFF#8) = true ∧
    isBroadcast fff5 = false := by decide

/-- RBSR = 0 copies nothing; a last chunk may end at the last address. -/
theorem witness_RxVisitFillsOneDescriptor :
    min faa10.length (rxOn 0#14).rbsr.toNat = 0 ∧ min faa10.length (rxOn 64#14).rbsr.toNat = 10 ∧
    (0xFFFFFFF6#32).toNat + 10 ≤ 2 ^ 32 ∧ (rxOn 64#14).rxCur.toNat + 16 < 2 ^ 32 := by decide

theorem witness_DeliveryFillsOneDescriptor :
    ∃ (d : Desc) (m : Memory) (c : Word) (r : Nat), rxRing.faulted = none ∧ rxRing.rxEnabled = true ∧
      rxRing.rxCur.toNat + 16 ≤ 2 ^ 32 ∧ d = descAt rxRing rxRing.rxCur ∧ owned d = true ∧
      (rxStream rxRing faa10).length ≤ rxRing.rbsr.toNat ∧ d.w3.toNat + (rxStream rxRing faa10).length ≤ 2 ^ 32 ∧
      canAdvance rxRing rxRing.rxCur d rxRing.rxBase ∧ c = nextPlace rxRing rxRing.rxCur d rxRing.rxBase ∧
      m = withDesc rxRing (busWriteBytes rxRing.cfg.bus rxRing.mem d.w3.toNat (rxStream rxRing faa10)) rxRing.rxCur
        (stamped d (rxStream rxRing faa10).length true true (isBroadcast faa10) (rxTooLong rxRing faa10)) ∧
      scanStops { rxRing with mem := m } c r :=
  ⟨descAt rxRing 0x3000#32,
    withDesc rxRing (busWriteBytes rxRing.cfg.bus rxRing.mem 0x4000 (rxStream rxRing faa10)) 0x3000#32
      (stamped (descAt rxRing 0x3000#32) 14 true true false false),
    0x3000#32, 0, by decide +kernel⟩

/-- The memory after each of the two descriptors is filled. -/
def rxPairOne : Memory :=
  withDesc rxPair (busWriteBytes rxPair.cfg.bus rxPair.mem 0x4000 ((rxStream rxPair faa10).take 8)) 0x3000#32
    (stamped (descAt rxPair 0x3000#32) 8 true false false false)
def rxPairTwo : Memory :=
  withDesc rxPair (busWriteBytes rxPair.cfg.bus rxPairOne 0x4100 ((rxStream rxPair faa10).drop 8)) 0x3010#32
    (stamped (descAt rxPair 0x3010#32) 6 false true false false)

theorem witness_DeliverySpansTwoDescriptors :
    ∃ (d e : Desc) (m m' : Memory) (c c' : Word) (n r : Nat),
      rxPair.faulted = none ∧ rxPair.rxEnabled = true ∧
      rxPair.rxCur.toNat + 16 ≤ 2 ^ 32 ∧ d = descAt rxPair rxPair.rxCur ∧ owned d = true ∧ n = rxPair.rbsr.toNat ∧
      0 < n ∧ n < (rxStream rxPair faa10).length ∧ (rxStream rxPair faa10).length ≤ 2 * n ∧ d.w3.toNat + n ≤ 2 ^ 32 ∧
      canAdvance rxPair rxPair.rxCur d rxPair.rxBase ∧ c = nextPlace rxPair rxPair.rxCur d rxPair.rxBase ∧
      m = withDesc rxPair (busWriteBytes rxPair.cfg.bus rxPair.mem d.w3.toNat ((rxStream rxPair faa10).take n)) rxPair.rxCur
        (stamped d n true false (isBroadcast faa10) (rxTooLong rxPair faa10)) ∧
      e = descAt { rxPair with mem := m } c ∧ owned e = true ∧
      e.w3.toNat + ((rxStream rxPair faa10).length - n) ≤ 2 ^ 32 ∧
      canAdvance rxPair c e rxPair.rxBase ∧ c' = nextPlace rxPair c e rxPair.rxBase ∧
      m' = withDesc rxPair (busWriteBytes rxPair.cfg.bus m e.w3.toNat ((rxStream rxPair faa10).drop n)) c
        (stamped e ((rxStream rxPair faa10).length - n) false true (isBroadcast faa10) (rxTooLong rxPair faa10)) ∧
      scanStops { rxPair with mem := m' } c' r :=
  ⟨descAt rxPair 0x3000#32, descAt rxPair 0x3010#32, rxPairOne, rxPairTwo, 0x3010#32, 0x3000#32, 8, 1,
    by decide +kernel⟩

theorem witness_DeliveryWithoutFreeDescriptorIsDropped :
    rxTaken.faulted = none ∧ rxTaken.rxEnabled = true ∧ owned (descAt rxTaken rxTaken.rxCur) = false ∧
    scanStops rxTaken rxTaken.rxCur 0 := by
  decide +kernel

theorem witness_EveryDeliveryEnds :
    txRing.Inv ∧ txRing.faulted = none ∧ txRing.cfg.bus.fill = .zero := ⟨txRing_inv, by decide, by decide⟩

/-- More descriptors than two: three are filled, and the scan stops at the next place. -/
def rxThree : State :=
  put 0x3000#32 0x80000000#32 0#32 0#32 0x4000#32 (put 0x3010#32 0x80000000#32 0#32 0#32 0x4100#32
    (put 0x3020#32 0x80000000#32 0#32 0#32 0x4200#32 (put 0x3030#32 0xC0000000#32 0#32 0#32 0x4300#32 (rxOn 5#14))))

/-- The stream is stored in three descriptors; none is free (the frame is dropped). -/
theorem witness_DeliveryFillsDescriptorsInOrder :
    rxThree.faulted = none ∧ rxThree.rxEnabled = true ∧ (∀ k < 3, fillsAndMovesOn rxThree faa10 k) ∧
    stopsAfter rxThree faa10 3 ∧ scanStops (delivered rxThree faa10 3) (delivered rxThree faa10 3).rxCur 0 ∧
    stopsAfter rxTaken faa10 0 ∧ bytesLeft rxTaken faa10 0 ∧
    scanStops (delivered rxTaken faa10 0) (delivered rxTaken faa10 0).rxCur 0 := by decide +kernel

/-- The invariant holds of a ring that can receive. -/
theorem rxRing_inv : rxRing.Inv where
  memCanonical := by decide +kernel
  memMapped := by decide +kernel
  txBaseAligned := by decide
  rxBaseAligned := by decide
  txCurAligned := by decide
  rxCurAligned := by decide
  isrReserved := by decide
  enabledDma := by decide
  noSwRst := by decide
  noMiiwr := by decide
  bmcrBits := by decide
  bmsrBits := by decide
  bmsrLink := by decide
  anarBits := by decide
  phyIntBits := by decide
  lineFollows := by decide

/-- The delivery fills one descriptor, and an address outside it and its buffer is left. -/
theorem witness_DeliveryChangesOnlyDescriptorsAndBuffers :
    rxRing.Inv ∧ after (.hostDeliver faa10) rxRing (fun t => t.mem == (delivered rxRing faa10 1).mem) = true ∧
    bytesLeft rxRing faa10 0 ∧ owned (metDesc rxRing faa10 0) = true ∧
    (delivered rxRing faa10 0).rxCur.toNat + 4 ≤ 0x3004 ∧ 0x3004 < (metDesc rxRing faa10 0).w3.toNat :=
  ⟨rxRing_inv, by decide +kernel⟩

/-- The last descriptor place of the address space: `w0` and the buffer. -/
def rxTop (w0 w3 : Word) : State :=
  put 0xFFFFFFF0#32 w0 0#32 0#32 w3 { rxOn 64#14 with rxBase := 0xFFFFFFF0#32, rxCur := 0xFFFFFFF0#32 }

/-- A 14-byte stream whose last byte would lie at 2^32; a step from the last place; a scan past the last place. -/
theorem witness_DeliveryPastTheTopRaisesAddrWrap :
    ((rxTop 0x80000000#32 0xFFFFFFF3#32).faulted = none ∧ (rxTop 0x80000000#32 0xFFFFFFF3#32).rxEnabled = true ∧
      bytesLeft (rxTop 0x80000000#32 0xFFFFFFF3#32) faa10 0 ∧
      owned (metDesc (rxTop 0x80000000#32 0xFFFFFFF3#32) faa10 0) = true ∧
      2 ^ 32 < (metDesc (rxTop 0x80000000#32 0xFFFFFFF3#32) faa10 0).w3.toNat +
        (chunk (rxTop 0x80000000#32 0xFFFFFFF3#32) faa10 0).length) ∧
    ((delivered (rxTop 0x80000000#32 0x4000#32) faa10 0).rxCur.toNat + 16 = 2 ^ 32 ∧
      (metDesc (rxTop 0x80000000#32 0x4000#32) faa10 0).w3.toNat +
        (chunk (rxTop 0x80000000#32 0x4000#32) faa10 0).length ≤ 2 ^ 32 ∧
      endOfRing (rxTop 0x80000000#32 0x4000#32) (metDesc (rxTop 0x80000000#32 0x4000#32) faa10 0) = false) ∧
    stopsAfter (rxTop 0#32 0#32) faa10 0 ∧
    (∀ k, (delivered (rxTop 0#32 0#32) faa10 0).rxCur.toNat + 16 * k + 16 ≤ 2 ^ 32 →
      owned (placeAt (delivered (rxTop 0#32 0#32) faa10 0) (delivered (rxTop 0#32 0#32) faa10 0).rxCur k) = false ∧
      endOfRing (rxTop 0#32 0#32)
        (placeAt (delivered (rxTop 0#32 0#32) faa10 0) (delivered (rxTop 0#32 0#32) faa10 0).rxCur k) = false) := by
  refine ⟨by decide +kernel, by decide +kernel, by decide +kernel, fun k hk => ?_⟩
  have h0 : k = 0 := by
    have : (delivered (rxTop 0#32 0#32) faa10 0).rxCur.toNat = 4294967280 := rfl
    omega
  subst h0
  decide +kernel

theorem witness_DescriptorRoundTrip :
    (0xFFFFFFF0#32).toNat + 16 ≤ 2 ^ 32 ∧ Memory.wf txRing.mem = true ∧ (0xFFFFFFF0#32).toNat % 16 = 0 ∧
    (∀ k < 16, hasMemory txRing.cfg.bus ((0xFFFFFFF0#32).toNat + k) = true) := by decide +kernel

theorem witness_BusWriteReadsBackAndLeavesTheRest :
    Memory.wf on.mem = true ∧ ∃ t, memWrite 0xFFFFFFFE [1#8, 2#8] on = .go () t := ⟨by decide, _, rfl⟩

/-- The clauses at their boundaries: a range that ends at the top, one that passes it, and the last cursor step. -/
theorem witness_RangePastTheTopRaisesAddrWrap :
    0xFFFFFFFC + 4 ≤ 2 ^ 32 ∧ 2 ^ 32 < 0xFFFFFFFE + 4 ∧ 2 ^ 32 ≤ (0xFFFFFFF0#32).toNat + 16 ∧
    (0xFFFFFFEF#32).toNat + 16 < 2 ^ 32 := by decide

theorem witness_RingCursorFollowsTheVariant :
    (0xFFFFFFEF#32).toNat + 16 < 2 ^ 32 ∧ on.cfg.variant = .aspeed ∧
    (State.powerOn { demoParams with variant := .faraday }).cfg.variant = .faraday := by decide

theorem witness_CanonicalMemoriesReadingAlikeAreEqual : Memory.wf [(3, 9#8), (5, 7#8)] = true := by decide

theorem witness_StepKeepsTheInvariant :
    txRing.Inv ∧ ∃ t, step txRing = .next t := ⟨txRing_inv, _, rfl⟩

end Sys2Proof.Tests
end

/-! PROOFS. The interrupt line over one operation (R172, R174, R189): the body of an operation does not touch the line or
its record, and irq_update at its end moves it at most once. -/

namespace Sys2Proof.Machine

/-! ### What leaves the line alone -/

/-- From `s` to `u` neither the line nor the record of its changes moved. -/
def LineKept (s u : State) : Prop := u.irqLevel = s.irqLevel ∧ u.irqChanges = s.irqChanges

/-- From `s` to `t` the line stayed with nothing recorded, or moved with one entry recorded (R172). -/
def LineMovedAtMostOnce (s t : State) : Prop :=
  LineKept s t ∨ (t.irqLevel = !s.irqLevel ∧ t.irqChanges = s.irqChanges ++ [!s.irqLevel])

theorem LineKept.refl (s : State) : LineKept s s := ⟨rfl, rfl⟩

theorem LineKept.trans {s t u : State} (h : LineKept s t) (h' : LineKept t u) : LineKept s u :=
  ⟨h'.1.trans h.1, h'.2.trans h.2⟩

theorem phyReset_keepsLine (s : State) : LineKept s (phyReset s) := ⟨rfl, rfl⟩

theorem phyWriteBmcr_keepsLine (v : Half) (s : State) : LineKept s (phyWriteBmcr v s) := by
  unfold phyWriteBmcr
  split
  · exact phyReset_keepsLine s
  · exact .refl s

theorem phyWrite_keepsLine (reg : BitVec 5) (v : Half) (s : State) : LineKept s (phyWrite reg v s) := by
  unfold phyWrite
  split
  · exact phyWriteBmcr_keepsLine v s
  · repeat' split
    all_goals exact .refl s

theorem phyReadEffect_keepsLine (reg : BitVec 5) (s : State) : LineKept s (phyReadEffect reg s) := by
  unfold phyReadEffect
  repeat' split
  all_goals exact .refl s

theorem mdioAccess_keepsLine (v : Word) (s : State) : LineKept s (mdioAccess v s) := by
  unfold mdioAccess
  split
  · exact phyWrite_keepsLine (phycrReg v) (phydataWrite s.phydata) s
  · exact phyReadEffect_keepsLine (phycrReg v) s

theorem TxStep.keepsLine {s t : State} (h : TxStep s t) : LineKept s t := by
  obtain ⟨m, o, x, dg, -, rfl⟩ := h
  exact .refl s

theorem TxRaised.keepsLine {s t : State} (h : TxRaised s t) : LineKept s t := by
  obtain ⟨w, k, hw, rfl⟩ := h
  exact hw.keepsLine

theorem RxStep.keepsLine {s t : State} (h : RxStep s t) : LineKept s t := by
  obtain ⟨m, x, dg, c, e, -, rfl⟩ := h
  exact .refl s

theorem RxRaised.keepsLine {s t : State} (h : RxRaised s t) : LineKept s t := by
  obtain ⟨w, k, hw, rfl⟩ := h
  exact hw.keepsLine

/-! ### irq_update -/

/-- Driving the line again changes nothing: a reset's own irq_update and the one that ends the operation count as one
(R172, R191). -/
@[simp] theorem irqUpdate_irqUpdate (s : State) : irqUpdate (irqUpdate s) = irqUpdate s := by
  simp [irqUpdate, lineActive]

/-- irq_update after a part of an operation that kept the line moves it at most once (R172). -/
theorem LineKept.irqUpdate {s u : State} (h : LineKept s u) : LineMovedAtMostOnce s (irqUpdate u) := by
  obtain ⟨hl, hc⟩ := h
  by_cases hsame : lineActive u = s.irqLevel
  · exact .inl ⟨hsame, by simp [hl, hc, hsame]⟩
  · have hflip : lineActive u = !s.irqLevel := Bool.eq_not_of_ne hsame
    exact .inr ⟨hflip, by simp [hl, hc, hflip]⟩

/-- A reset clears R.ISR and R.IER and drives the line, and touches it nowhere else (R191). -/
theorem deviceReset_movesLineAtMostOnce (s : State) : LineMovedAtMostOnce s (irqUpdate (deviceReset s)) := by
  rw [deviceReset, irqUpdate_irqUpdate]
  exact LineKept.irqUpdate (phyReset_keepsLine _)

/-! ### Every operation -/

/-- What an operation leaves, once the line is driven, has moved the line at most once. -/
theorem Effect.movesLineAtMostOnce {i : Instr} {s u : State} (h : Effect i s u) :
    LineMovedAtMostOnce s (irqUpdate u) := by
  cases i
  case hostReset =>
    subst h
    exact deviceReset_movesLineAtMostOnce s
  case wrMaccr v =>
    obtain ⟨-, rfl⟩ | ⟨-, b, -, rfl⟩ | ⟨-, -, -, rfl⟩ := h
    · exact deviceReset_movesLineAtMostOnce { s with maccr := v }
    · exact (LineKept.refl s).irqUpdate
    · exact (LineKept.refl s).irqUpdate
  case wrNptxpd =>
    obtain ⟨-, rfl⟩ | ⟨-, w, cur, hw, rfl⟩ := h
    · exact (LineKept.refl _).irqUpdate
    · exact LineKept.irqUpdate hw.keepsLine
  case hostDeliver =>
    obtain ⟨-, rfl⟩ | ⟨-, hu⟩ := h
    · exact (LineKept.refl s).irqUpdate
    · exact hu.keepsLine.irqUpdate
  case wrPhycr v =>
    subst h
    exact LineKept.irqUpdate (mdioAccess_keepsLine v { s with phycr := v })
  case wrNptxrBadr | wrRxrBadr =>
    obtain ⟨-, rfl⟩ := h
    exact (LineKept.refl s).irqUpdate
  all_goals
    subst h
    exact (LineKept.refl _).irqUpdate

/-- An operation that raised a model fault has not touched the line (R177). -/
theorem Raises.keepsLine {i : Instr} {s u : State} (h : Raises i s u) : LineKept s u := by
  cases i
  case wrNptxpd => exact h.2.keepsLine
  case hostDeliver => exact h.2.keepsLine
  case wrMaccr =>
    obtain ⟨-, -, -, k, rfl⟩ := h
    exact .refl s
  case wrNptxrBadr | wrRxrBadr =>
    obtain ⟨-, k, rfl⟩ := h
    exact .refl s
  all_goals exact h.elim

/-- Every operation moves the line at most once. -/
theorem exec_movesLineAtMostOnce {i : Instr} {s t : State} (h : exec i s = .next t) : LineMovedAtMostOnce s t := by
  obtain ⟨-, ⟨r, u, hu, rfl⟩ | ⟨u, hu, rfl⟩⟩ := exec_next h
  · exact hu.movesLineAtMostOnce
  · exact .inl hu.keepsLine

end Sys2Proof.Machine

namespace Sys2Proof.Claims

open Sys2Proof.Machine

/-- Settles O25: what an operation does before its end keeps the line, and irq_update moves it at most once. -/
theorem lineChangesAtMostOncePerOperation : Obligations.LineChangesAtMostOncePerOperation := by
  unfold Obligations.LineChangesAtMostOncePerOperation
  intro i s t h
  exact exec_movesLineAtMostOnce h

end Sys2Proof.Claims

/-! PROOFS. The stream a delivery stores (R135) and the broadcast test (R136). -/

namespace Sys2Proof.Machine

open Sys2Proof.Claims

/-- The model's MAXF is the statements' one (R5). -/
theorem maxFrame_eq_frameLimit (s : State) : maxFrame s = frameLimit s := rfl

/-- Every MAXF has room for the trailer (R5). -/
theorem four_le_frameLimit (s : State) : 4 ≤ frameLimit s := by
  unfold frameLimit
  split <;> omega

/-- The flag says that the frame and its trailer pass MAXF (R135). -/
theorem rxTooLong_iff (s : State) (f : List Byte) : rxTooLong s f = true ↔ frameLimit s < f.length + 4 := by
  rw [rxTooLong, maxFrame_eq_frameLimit, decide_eq_true_iff]

/-- A frame that fits is its own first MAXF - 4 bytes, so the cut need not ask whether it is too long (R135). -/
theorem rxStream_eq (s : State) (f : List Byte) :
    rxStream s f = f.take (frameLimit s - 4) ++ bytesOfWord (fcsWord s.cfg.fcs f) := by
  unfold rxStream trailer
  split
  · rfl
  · rename_i hfits
    rw [rxTooLong_iff] at hfits
    rw [List.take_of_length_le (by omega)]

theorem rxStream_length (s : State) (f : List Byte) : (rxStream s f).length = min (f.length + 4) (frameLimit s) := by
  have hroom := four_le_frameLimit s
  rw [rxStream_eq, List.length_append, List.length_take, bytesOfWord_length]
  omega

/-- A frame is broadcast when it has a destination address and every byte of it is 0xFF (R136). -/
theorem isBroadcast_iff (f : List Byte) :
    isBroadcast f = true ↔ 6 ≤ f.length ∧ ∀ k < 6, f.getD k 0#8 = 0xFF#8 := by
  rw [isBroadcast, beq_iff_eq, List.ext_getElem_iff]
  simp only [List.length_take, List.length_replicate, List.getElem_take, List.getElem_replicate]
  constructor
  · rintro ⟨hlen, hbyte⟩
    refine ⟨by omega, fun k hk => ?_⟩
    rw [List.getD_eq_getElem f 0#8 (by omega)]
    exact hbyte k (by omega) hk
  · rintro ⟨hlen, hbyte⟩
    refine ⟨by omega, fun k _ hk => ?_⟩
    rw [← List.getD_eq_getElem f 0#8]
    exact hbyte k hk

end Sys2Proof.Machine

namespace Sys2Proof.Claims

open Sys2Proof.Machine

/-- Settles O41: length, content and the two flags of the stream, each by its own lemma. -/
theorem streamIsTheFrameAndItsTrailer : Obligations.StreamIsTheFrameAndItsTrailer := by
  unfold Obligations.StreamIsTheFrameAndItsTrailer
  intro s f
  exact ⟨rxStream_length s f, rxStream_eq s f, rxTooLong_iff s f, isBroadcast_iff f⟩

end Sys2Proof.Claims

/-! PROOFS. Masks, the end of an operation and the reset in the statements' own terms, and what an MDIO access or a link
event can do: the layer that the statements of the state's family rest on. -/

namespace Sys2Proof.Machine

open Sys2Proof.Claims

/-! ### Bits inside a mask -/

section Masks

variable {n : Nat} {a b m k : BitVec n}

/-- `a` has no bit outside `m`, bit by bit. -/
theorem and_not_eq_zero_iff : a &&& ~~~m = 0#n ↔ ∀ i, a.getLsbD i = true → m.getLsbD i = true := by
  constructor
  · intro h i ha
    have hi := congrArg (·.getLsbD i) h
    have hn : i < n := BitVec.lt_of_getLsbD ha
    simpa [ha, hn] using hi
  · intro h
    refine BitVec.eq_of_getLsbD_eq fun i hi => ?_
    cases ha : a.getLsbD i
    · simp [ha]
    · simp [ha, h i ha]

theorem or_and_not_eq_zero (ha : a &&& ~~~m = 0#n) (hb : b &&& ~~~m = 0#n) : (a ||| b) &&& ~~~m = 0#n := by
  rw [and_not_eq_zero_iff] at *
  intro i hi
  rw [BitVec.getLsbD_or, Bool.or_eq_true] at hi
  exact hi.elim (ha i) (hb i)

theorem and_and_not_eq_zero (ha : a &&& ~~~m = 0#n) : (a &&& b) &&& ~~~m = 0#n := by
  rw [and_not_eq_zero_iff] at *
  intro i hi
  rw [BitVec.getLsbD_and, Bool.and_eq_true] at hi
  exact ha i hi.1

theorem and_not_eq_zero_mono (hmk : m &&& ~~~k = 0#n) (ha : a &&& ~~~m = 0#n) : a &&& ~~~k = 0#n := by
  rw [and_not_eq_zero_iff] at *
  exact fun i hi => hmk i (ha i hi)

/-- Outside a mask, setting bits of it changes nothing. -/
theorem or_and_not (hb : b &&& ~~~m = 0#n) : (a ||| b) &&& ~~~m = a &&& ~~~m := by
  rw [BitVec.and_or_distrib_right, hb, BitVec.or_zero]

/-- Outside a mask, clearing its bits changes nothing. -/
theorem and_not_mask_and_not : (a &&& ~~~m) &&& ~~~m = a &&& ~~~m := by
  rw [BitVec.and_assoc, BitVec.and_self]

end Masks

/-! ### One operation -/

/-- What each operation does before its end (R85 to R113, R137, R138, R161, R191). -/
def opBody (i : Instr) (s : State) : Flow Response :=
  match i with
  | .rdIsr => .go (.rd32 s.isr) s
  | .rdIer => .go (.rd32 s.ier) s
  | .rdMadr => .go (.rd32 (madrValue s.mac)) s
  | .rdLadr => .go (.rd32 (ladrValue s.mac)) s
  | .rdNptxpd | .rdRxpd => .go (.rd32 0#32) s
  | .rdNptxrBadr => .go (.rd32 s.txBase) s
  | .rdRxrBadr => .go (.rd32 s.rxBase) s
  | .rdAptc => .go (.rd32 s.aptc) s
  | .rdRbsr => .go (.rd32 (rbsrValue s.rbsr)) s
  | .rdMaccr => .go (.rd32 s.maccr) s
  | .rdPhycr => .go (.rd32 s.phycr) s
  | .rdPhydata => .go (.rd32 s.phydata) s
  | .wrIsr v => .go .nothing { s with isr := s.isr &&& ~~~v }
  | .wrIer v => .go .nothing { s with ier := v }
  | .wrMadr v => .go .nothing { s with mac := withMadr v s.mac }
  | .wrLadr v => .go .nothing { s with mac := withLadr v s.mac }
  | .wrNptxpd _ => if txdmaEn s.maccr then (txKick s).bind fun _ s => .go .nothing s else .go .nothing s
  | .wrRxpd _ => .go .nothing s
  | .wrNptxrBadr v =>
    if baseLow v = 0 then .go .nothing { s with txBase := v, txCur := v }
    else raise (.ringBaseMisaligned (regOffset .nptxrBadr) v) s
  | .wrRxrBadr v =>
    if baseLow v = 0 then .go .nothing { s with rxBase := v, rxCur := v }
    else raise (.ringBaseMisaligned (regOffset .rxrBadr) v) s
  | .wrAptc v => .go .nothing { s with aptc := v }
  | .wrRbsr v => .go .nothing { s with rbsr := rbsrField v }
  | .wrMaccr v =>
    if swRst v then .go .nothing (deviceReset { s with maccr := v })
    else (maccrEnable s.maccr v { s with maccr := v }).bind fun _ s => .go .nothing s
  | .wrPhycr v => .go .nothing (mdioAccess v { s with phycr := v })
  | .wrPhydata v => .go .nothing { s with phydata := phydataStored v }
  | .hostDeliver f =>
    if s.rxEnabled then (rxAccept f s).bind fun _ s => .go .nothing s else .go .nothing (diag .rxNotEnabled s)
  | .hostLink up => .go .nothing (phyUpdateLink { s with linkUp := up })
  | .hostReset => .go .nothing (deviceReset s)
  | .hostCanReceive => .go (.canReceive s.rxEnabled) s
  | .badAccessRdB _ => .go (.rd8 0#8) (diag .badAccess s)
  | .badAccessRdH _ => .go (.rd16 0#16) (diag .badAccess s)
  | .badAccessRdD _ => .go (.rd64 0#64) (diag .badAccess s)
  | .badAccessRdMis1 _ | .badAccessRdMis2 _ | .badAccessRdMis3 _ => .go (.rd32 0#32) (diag .badAccess s)
  | .badAccessWrB _ _ | .badAccessWrH _ _ | .badAccessWrD _ _ | .badAccessWrMis1 _ _ | .badAccessWrMis2 _ _
  | .badAccessWrMis3 _ _ => .go .nothing (diag .badAccess s)
  | .rdUnmapped _ => .go (.rd32 0#32) (diag .unmapped s)
  | .wrUnmapped _ _ => .go .nothing (diag .unmapped s)

/-- Every operation is its body, performed (R44). -/
theorem exec_eq_perform (i : Instr) (s : State) : exec i s = perform (opBody i) s := by
  cases i <;> rfl

/-- Every operation is performed, so a faulted device has none (R34, R177). -/
theorem exec_faulted {s : State} {k : FaultKind} (h : s.faulted = some k) (i : Instr) :
    exec i s = .fault (.stuck k) := by
  rw [exec_eq_perform, perform_faulted h]

/-- On a device that is not faulted an operation answers how its body ends (R114, R177). -/
theorem exec_running {s : State} (h : s.faulted = none) (i : Instr) : exec i s = finish (opBody i s) := by
  rw [exec_eq_perform, perform_running h]

theorem lineActive_eq_lineHigh (s : State) : lineActive s = lineHigh s := by
  simp [lineActive, lineHigh, bne, beq_eq_decide]

/-- An operation that ends in `u` ends as the statements say (R114, R172). -/
theorem irqUpdate_eq_ended (r : Response) (u : State) : { irqUpdate u with response := r } = ended r u := by
  by_cases h : lineHigh u = u.irqLevel <;> simp [irqUpdate, ended, lineActive_eq_lineHigh, h]

/-- An operation that raised a model fault had changed nothing, or what it could change, and kept it (R177). -/
theorem Raises.effect {i : Instr} {s u : State} (h : Raises i s u) :
    ∃ w k, (w = s ∨ Effect i s w) ∧ u = { w with faulted := some k } := by
  cases i
  case wrNptxpd =>
    obtain ⟨he, w, k, hw, rfl⟩ := h
    exact ⟨w, k, .inr (.inr ⟨he, w, w.txCur, hw, rfl⟩), rfl⟩
  case hostDeliver =>
    obtain ⟨he, w, k, hw, rfl⟩ := h
    exact ⟨w, k, .inr (.inr ⟨he, hw⟩), rfl⟩
  case wrMaccr v =>
    obtain ⟨hv, hd, -, k, rfl⟩ := h
    exact ⟨{ s with maccr := v }, k, .inr (.inr (.inl ⟨hv, s.rxEnabled, fun _ => hd, rfl⟩)), rfl⟩
  case wrNptxrBadr | wrRxrBadr =>
    obtain ⟨-, k, rfl⟩ := h
    exact ⟨s, k, .inl rfl, rfl⟩
  all_goals exact h.elim

/-- The line after an operation that raised no model fault has the level of its enabled causes (R172). -/
theorem exec_line {i : Instr} {s t : State} (h : exec i s = .next t) (ht : t.faulted = none) :
    t.irqLevel = lineActive t := by
  obtain ⟨-, ⟨r, u, -, rfl⟩ | ⟨u, hu, rfl⟩⟩ := exec_next h
  · rfl
  · exact absurd ht hu.faulted

/-! ### The PHY -/

/-- The evaluation of the PHY interrupt moves PHYSTS_CHG and nothing else (R168). -/
theorem phyIrqEval_eq (s : State) : phyIrqEval s = { s with isr := evalIsr s.isr s.phyInt s.phyIntMask } := by
  by_cases h : s.phyInt &&& s.phyIntMask = 0#8 <;> simp [phyIrqEval, phyPending, evalIsr, causePhystsChg, h]

/-- An evaluation sets PHYSTS_CHG alone, and only while an unmasked PHY source is pending (R168). -/
theorem evalIsr_sets {isr : Word} {src mask : Byte} {b : Nat} (h0 : isr.getLsbD b = false)
    (h1 : (evalIsr isr src mask).getLsbD b = true) : b = 9 ∧ src &&& mask ≠ 0#8 := by
  unfold evalIsr at h1
  split at h1
  · refine ⟨?_, ‹_›⟩
    rw [show (0x00000200#32 : Word) = BitVec.twoPow 32 9 from rfl] at h1
    simpa [h0, eq_comm] using h1
  · simp [h0] at h1

/-- With every PHY source masked, an evaluation of a clear R.ISR leaves it clear. -/
@[simp] theorem evalIsr_zero_mask (src : Byte) : evalIsr 0#32 src 0#8 = 0#32 := by simp [evalIsr]

/-- What a part of an MDIO access, or a link event, can change of the PHY: its registers, PHYSTS_CHG by an evaluation, and
diagnostics appended. -/
def PhyStep (s t : State) : Prop :=
  ∃ pc st ad src mask isr dg, (isr = s.isr ∨ isr = evalIsr s.isr src mask) ∧
    t = { s with
      phyControl := pc, phyStatus := st, phyAdvertise := ad, phyInt := src, phyIntMask := mask, isr := isr
      diagTrace := s.diagTrace ++ dg }

theorem PhyStep.refl (s : State) : PhyStep s s :=
  ⟨s.phyControl, s.phyStatus, s.phyAdvertise, s.phyInt, s.phyIntMask, s.isr, [], .inl rfl, by simp⟩

theorem PhyStep.logged (c : Diag) (s : State) : PhyStep s (diag c s) :=
  ⟨s.phyControl, s.phyStatus, s.phyAdvertise, s.phyInt, s.phyIntMask, s.isr, [c], .inl rfl, rfl⟩

/-- PHY registers stored, with no evaluation. -/
theorem PhyStep.stored (s : State) (pc st ad : Half) :
    PhyStep s { s with phyControl := pc, phyStatus := st, phyAdvertise := ad } :=
  ⟨pc, st, ad, s.phyInt, s.phyIntMask, s.isr, [], .inl rfl, by simp⟩

/-- PHY registers stored, then evaluated. -/
theorem PhyStep.evaluated (s : State) (pc st ad : Half) (src mask : Byte) :
    PhyStep s (phyIrqEval { s with
      phyControl := pc, phyStatus := st, phyAdvertise := ad, phyInt := src, phyIntMask := mask }) :=
  ⟨pc, st, ad, src, mask, _, [], .inr rfl, by simp [phyIrqEval_eq]⟩

/-- Re-deriving the link state, whole (R162, R168). -/
theorem phyUpdateLink_eq (s : State) :
    phyUpdateLink s = { s with
      phyStatus := linkedStatus s.linkUp s.phyStatus, phyInt := linkedInt s.linkUp s.phyInt
      isr := evalIsr s.isr (linkedInt s.linkUp s.phyInt) s.phyIntMask } :=
  phyIrqEval_eq _

theorem phyUpdateLink_step (s : State) : PhyStep s (phyUpdateLink s) := .evaluated s ..

theorem phyReset_step (s : State) : PhyStep s (phyReset s) := .evaluated s ..

theorem phyWriteBmcr_step (v : Half) (s : State) : PhyStep s (phyWriteBmcr v s) := by
  unfold phyWriteBmcr
  split
  · exact phyReset_step s
  · exact .stored s ..

theorem phyWriteAnar_step (v : Half) (s : State) : PhyStep s (phyWriteAnar v s) := .stored s ..

theorem phyWrite_step (reg : BitVec 5) (v : Half) (s : State) : PhyStep s (phyWrite reg v s) := by
  unfold phyWrite
  split
  · exact phyWriteBmcr_step v s
  · split
    · exact phyWriteAnar_step v s
    · split
      · exact .evaluated s ..
      · split
        · exact .refl s
        · exact .logged .phyBadReg s

theorem phyReadEffect_step (reg : BitVec 5) (s : State) : PhyStep s (phyReadEffect reg s) := by
  unfold phyReadEffect
  split
  · exact .evaluated s ..
  · split
    · exact .refl s
    · exact .logged .phyBadReg s

theorem PhyStep.phycr {s t : State} (h : PhyStep s t) : t.phycr = s.phycr := by
  obtain ⟨pc, st, ad, src, mask, isr, dg, -, rfl⟩ := h
  rfl

/-- The flag of PHYCR that an access of value `v` clears: MIIWR for a write, MIIRD for a read (R151). -/
def servedFlag (v : Word) : Word := if phycrWrite v then miiwrBit else miirdBit

/-- An MDIO access is a step of the PHY, the flag that asked for it cleared, and a change of PHYDATA (R151). -/
theorem mdioAccess_step (v : Word) (s : State) :
    ∃ w pd, PhyStep s w ∧ mdioAccess v s = { w with phycr := s.phycr &&& ~~~servedFlag v, phydata := pd } := by
  unfold mdioAccess servedFlag
  split
  · have hw := phyWrite_step (phycrReg v) (phydataWrite s.phydata) s
    exact ⟨_, _, hw, by rw [← hw.phycr]⟩
  · have hw := phyReadEffect_step (phycrReg v) s
    exact ⟨_, _, hw, by rw [← hw.phycr]⟩

/-! ### The reset -/

/-- The reset procedure gives the reset values and drives the line (R38, R191, R195). -/
theorem deviceReset_eq (s : State) : deviceReset s = irqUpdate (resetOf s) := by
  unfold deviceReset phyReset resetOf
  rw [phyUpdateLink_eq]
  cases s.linkUp <;> simp [linkedStatus, linkedInt] <;> rfl

end Sys2Proof.Machine

/-! PROOFS. Over every operation: which components it can change, which cause bits it can set, and the line at its end. Each
follows from what an operation can leave (`Effect`) and where it can stop (`Raises`). -/

namespace Sys2Proof.Machine

open Sys2Proof.Claims

/-! ### The cause bits -/

/-- Which cause bit `b` an operation sets, where it left `u` (R173). -/
def SetsCause (i : Instr) (u : State) (b : Nat) : Prop :=
  ((b = 0 ∨ b = 1 ∨ b = 2) ∧ ∃ f, i = .hostDeliver f) ∨ ((b = 4 ∨ b = 5 ∨ b = 6) ∧ ∃ v, i = .wrNptxpd v) ∨
    (b = 9 ∧ u.phyInt &&& u.phyIntMask ≠ 0#8 ∧ ((∃ v, i = .wrPhycr v) ∨ ∃ up, i = .hostLink up))

/-- A kick sets TX cause bits alone. -/
theorem TxStep.sets {s u : State} {b : Nat} (h : TxStep s u) (h0 : s.isr.getLsbD b = false)
    (h1 : u.isr.getLsbD b = true) : b = 4 ∨ b = 5 ∨ b = 6 := by
  obtain ⟨m, o, x, dg, hx, rfl⟩ := h
  have hb := and_not_eq_zero_iff.mp hx b (by simpa [h0] using h1)
  exact (by decide : ∀ b < 32, (0x70#32).getLsbD b = true → b = 4 ∨ b = 5 ∨ b = 6) b (BitVec.lt_of_getLsbD hb) hb

/-- A delivery sets RX cause bits alone. -/
theorem RxStep.sets {s u : State} {b : Nat} (h : RxStep s u) (h0 : s.isr.getLsbD b = false)
    (h1 : u.isr.getLsbD b = true) : b = 0 ∨ b = 1 ∨ b = 2 := by
  obtain ⟨m, x, dg, c, e, hx, rfl⟩ := h
  have hb := and_not_eq_zero_iff.mp hx b (by simpa [h0] using h1)
  exact (by decide : ∀ b < 32, (0x7#32).getLsbD b = true → b = 0 ∨ b = 1 ∨ b = 2) b (BitVec.lt_of_getLsbD hb) hb

/-- The PHY sets PHYSTS_CHG alone, while an unmasked source of it is pending. -/
theorem PhyStep.sets {s u : State} {b : Nat} (h : PhyStep s u) (h0 : s.isr.getLsbD b = false)
    (h1 : u.isr.getLsbD b = true) : b = 9 ∧ u.phyInt &&& u.phyIntMask ≠ 0#8 := by
  obtain ⟨pc, st, ad, src, mask, isr, dg, rfl | rfl, rfl⟩ := h
  · simp [h0] at h1
  · exact evalIsr_sets h0 h1

/-- A reset sets no cause bit. -/
@[simp] theorem deviceReset_isr (s : State) : (deviceReset s).isr = 0#32 := by rw [deviceReset_eq]; rfl

theorem Effect.setsCause {i : Instr} {s u : State} {b : Nat} (h : Effect i s u) (h0 : s.isr.getLsbD b = false)
    (h1 : u.isr.getLsbD b = true) : SetsCause i u b := by
  cases i
  case hostDeliver f =>
    obtain ⟨-, rfl⟩ | ⟨-, hu⟩ := h
    · simp [h0] at h1
    · exact .inl ⟨hu.sets h0 h1, f, rfl⟩
  case wrNptxpd v =>
    obtain ⟨-, rfl⟩ | ⟨-, w, cur, hw, rfl⟩ := h
    · simp [h0] at h1
    · exact .inr (.inl ⟨hw.sets h0 h1, v, rfl⟩)
  case wrPhycr v =>
    obtain ⟨w, pd, hw, he⟩ := mdioAccess_step v { s with phycr := v }
    rw [Effect, he] at h
    subst h
    obtain ⟨hb, hp⟩ := hw.sets h0 h1
    exact .inr (.inr ⟨hb, hp, .inl ⟨v, rfl⟩⟩)
  case hostLink up =>
    subst h
    obtain ⟨hb, hp⟩ := (phyUpdateLink_step { s with linkUp := up }).sets h0 h1
    exact .inr (.inr ⟨hb, hp, .inr ⟨up, rfl⟩⟩)
  case hostReset =>
    subst h
    simp at h1
  case wrMaccr v =>
    obtain ⟨-, rfl⟩ | ⟨-, e, -, rfl⟩ | ⟨-, -, -, rfl⟩ := h <;> simp [h0] at h1
  case wrNptxrBadr | wrRxrBadr =>
    obtain ⟨-, rfl⟩ := h
    simp [h0] at h1
  all_goals
    subst h
    simp [h0] at h1

/-- What stopped at a model fault had set cause bits of the same kinds. -/
theorem Raises.setsCause {i : Instr} {s u : State} {b : Nat} (h : Raises i s u) (h0 : s.isr.getLsbD b = false)
    (h1 : u.isr.getLsbD b = true) : SetsCause i u b := by
  obtain ⟨w, k, rfl | hw, rfl⟩ := h.effect
  · simp [h0] at h1
  · exact hw.setsCause h0 h1

/-! ### Alignment -/

/-- A ring base is misaligned when it is no multiple of 16 (R72). -/
theorem baseLow_eq_zero_iff (v : Word) : baseLow v = 0 ↔ v.toNat % 16 = 0 := by
  simp [baseLow, ← BitVec.toNat_inj, BitVec.extractLsb'_toNat]

end Sys2Proof.Machine

namespace Sys2Proof.Claims

open Sys2Proof.Machine

/-- Settles O28: each operation's effect, or the state it stopped in at a model fault, is an update of the components it
owns. -/
theorem onlyItsOwnOperationsChangeAComponent : Obligations.OnlyItsOwnOperationsChangeAComponent := by
  unfold Obligations.OnlyItsOwnOperationsChangeAComponent
  intro i s t h
  obtain ⟨-, ⟨r, u, hu, rfl⟩ | ⟨u, hu, rfl⟩⟩ := exec_next h
  · cases i
    case hostReset =>
      subst hu
      simp [deviceReset_eq, resetOf, isReset]
    case wrMaccr v =>
      obtain ⟨hv, rfl⟩ | ⟨-, b, -, rfl⟩ | ⟨-, -, -, rfl⟩ := hu
      · have hr : isReset (.wrMaccr v) := .inr ⟨v, hv, rfl⟩
        simp [deviceReset_eq, resetOf, hr]
      · simp
      · simp
    case wrNptxpd =>
      obtain ⟨-, rfl⟩ | ⟨-, w, cur, ⟨m, o, x, dg, -, rfl⟩, rfl⟩ := hu <;> simp
    case hostDeliver =>
      obtain ⟨-, rfl⟩ | ⟨-, m, x, dg, c, e, -, rfl⟩ := hu <;> simp
    case wrPhycr v =>
      obtain ⟨w, pd, ⟨pc, st, ad, src, mask, isr, dg, -, rfl⟩, hw⟩ := mdioAccess_step v { s with phycr := v }
      subst hu
      simp [hw]
    case hostLink up =>
      subst hu
      simp [phyUpdateLink_eq]
    case wrNptxrBadr | wrRxrBadr =>
      obtain ⟨-, rfl⟩ := hu
      simp
    all_goals
      subst hu
      simp
  · cases i
    case wrNptxpd =>
      obtain ⟨he, w, k, ⟨m, o, x, dg, -, rfl⟩, rfl⟩ := hu
      have he : s.maccr[0] = true := he
      simp [he]
    case hostDeliver =>
      obtain ⟨he, w, k, ⟨m, x, dg, c, e, -, rfl⟩, rfl⟩ := hu
      simp [he]
    case wrMaccr v =>
      obtain ⟨hv, hd, ho, k, rfl⟩ := hu
      have hv : v[31] = false := hv
      have ho : s.maccr[1] = false := ho
      have hd : v[1] = true := hd
      simp [hv, ho, hd]
    case wrNptxrBadr | wrRxrBadr =>
      obtain ⟨hv, k, rfl⟩ := hu
      rw [ne_eq, baseLow_eq_zero_iff] at hv
      simp [hv]
    all_goals exact hu.elim

/-- Settles O27: no other operation's effect has a bit of R.ISR that was clear before. -/
theorem causeBitsAreSetOnlyByTheirEvents : Obligations.CauseBitsAreSetOnlyByTheirEvents := by
  unfold Obligations.CauseBitsAreSetOnlyByTheirEvents
  intro i s t b h h0 h1
  obtain ⟨-, ⟨r, u, hu, rfl⟩ | ⟨u, hu, rfl⟩⟩ := exec_next h
  · exact hu.setsCause h0 h1
  · exact hu.setsCause h0 h1

/-- Settles O24: irq_update is the last thing an operation without a model fault does. -/
theorem lineFollowsTheEnabledCauses : Obligations.LineFollowsTheEnabledCauses := by
  unfold Obligations.LineFollowsTheEnabledCauses
  intro i s t h ht
  rw [exec_line h ht, lineActive_eq_lineHigh, lineHigh]

/-- Settles O8: the step and every operation first look at `faulted`. -/
theorem faultedDeviceHasNoStep : Obligations.FaultedDeviceHasNoStep := by
  unfold Obligations.FaultedDeviceHasNoStep
  intro s k h
  exact ⟨by simp [step, stepNext, h], exec_faulted h⟩

/-- Settles O17: both resets are the one procedure, which gives the reset values and drives the line, low with no cause
enabled. -/
theorem deviceResetGivesTheResetValues : Obligations.DeviceResetGivesTheResetValues := by
  unfold Obligations.DeviceResetGivesTheResetValues
  intro s h
  refine ⟨?_, fun v hv => ?_, ?_⟩
  · rw [exec_running h, opBody, finish_go, deviceReset_eq, irqUpdate_irqUpdate, irqUpdate_eq_ended]
  · have hrst : swRst v = true := hv
    rw [exec_running h, opBody, if_pos hrst, finish_go, deviceReset_eq, irqUpdate_irqUpdate, irqUpdate_eq_ended]
    rfl
  · simp [ended, lineHigh, resetOf]

/-- Settles O19, for a link that is up or down at power-on. -/
theorem powerOnIsTheResetState : Obligations.PowerOnIsTheResetState := by
  unfold Obligations.PowerOnIsTheResetState
  intro p
  refine ⟨?_, rfl, rfl, rfl, rfl, rfl, rfl, rfl⟩
  rcases p with ⟨_, _, _, _ | _, _⟩ <;> rfl

end Sys2Proof.Claims

/-! PROOFS. The diagnostic trace is an output alone (R176): run with another trace, every part of an operation ends the same
way, in a state that differs in its trace alone. -/

namespace Sys2Proof.Machine

open Sys2Proof.Claims

/-- Two endings that differ in the diagnostic trace of their states alone. -/
inductive Flow.SameButDiag {α : Type} : Flow α → Flow α → Prop
  | go (a : α) {s t : State} (h : ∃ d, s = { t with diagTrace := d }) : SameButDiag (.go a s) (.go a t)
  | raised {s t : State} (h : ∃ d, s = { t with diagTrace := d }) : SameButDiag (.raised s) (.raised t)
  | endless : SameButDiag .endless .endless

/-- A part of an operation does not see the diagnostic trace. -/
def Blind {α : Type} (f : State → Flow α) : Prop :=
  ∀ (s : State) (d : List Diag), Flow.SameButDiag (f { s with diagTrace := d }) (f s)

/-- The rule of sequencing. -/
theorem Flow.SameButDiag.bind {α β : Type} {x y : Flow α} {f g : α → State → Flow β} (h : Flow.SameButDiag x y)
    (hf : ∀ a s d, Flow.SameButDiag (f a { s with diagTrace := d }) (g a s)) :
    Flow.SameButDiag (x.bind f) (y.bind g) := by
  cases h with
  | go a h =>
    obtain ⟨d, rfl⟩ := h
    exact hf a _ d
  | raised h => exact .raised h
  | endless => exact .endless

theorem Blind.bind {α β : Type} {x : State → Flow α} {f : α → State → Flow β} (hx : Blind x) (hf : ∀ a, Blind (f a)) :
    Blind fun s => (x s).bind f :=
  fun s d => (hx s d).bind hf

/-- A raise keeps the state, trace included, but for `faulted` (R177). -/
theorem raise_blind {α : Type} (k : FaultKind) : Blind (raise k : State → Flow α) := fun _ _ => .raised ⟨_, rfl⟩

/-! ### Memory and cursors -/

/-- The bus does not see the trace. -/
@[simp] theorem busReadBytes_withDiag (s : State) (d : List Diag) (a n : Nat) :
    busReadBytes { s with diagTrace := d } a n = busReadBytes s a n := by
  induction n generalizing a with
  | zero => rfl
  | succ n ih => exact congrArg (busRead s a :: ·) (ih (a + 1))

theorem memRead_blind (a n : Nat) : Blind (memRead a n) := by
  intro s d
  unfold memRead
  rw [busReadBytes_withDiag]
  split
  · exact .go _ ⟨_, rfl⟩
  · split
    · exact raise_blind _ s d
    · exact .go _ ⟨_, rfl⟩

theorem memWrite_blind (a : Nat) (bytes : List Byte) : Blind (memWrite a bytes) := by
  intro s d
  unfold memWrite
  split
  · exact .go _ ⟨_, rfl⟩
  · split
    · exact raise_blind _ s d
    · exact .go _ ⟨_, rfl⟩

theorem readDesc_blind (a : Word) : Blind (readDesc a) :=
  (memRead_blind _ _).bind fun _ _ _ => .go _ ⟨_, rfl⟩

theorem writeDesc_blind (a : Word) (x : Desc) : Blind (writeDesc a x) := memWrite_blind _ _

theorem stepUp_blind (cur : Word) : Blind (stepUp cur) := by
  intro s d
  unfold stepUp
  split
  · exact raise_blind _ s d
  · exact .go _ ⟨_, rfl⟩

theorem advance_blind (cur : Word) (x : Desc) (base : Word) : Blind (advance cur x base) := by
  intro s d
  unfold advance
  split
  · exact .go _ ⟨_, rfl⟩
  · exact stepUp_blind cur s d

/-! ### The scans and the engines -/

theorem locate_blind (fuel : Nat) (c : Word) : Blind (locate fuel c) := by
  induction fuel generalizing c with
  | zero => exact fun _ _ => .endless
  | succ fuel ih =>
    refine (readDesc_blind c).bind fun x s d => ?_
    dsimp only
    split
    · exact .go _ ⟨_, rfl⟩
    · exact (stepUp_blind c).bind ih s d

theorem scanFree_blind (fuel : Nat) (c : Word) : Blind (scanFree fuel c) := by
  induction fuel generalizing c with
  | zero => exact fun _ _ => .endless
  | succ fuel ih =>
    refine (readDesc_blind c).bind fun x s d => ?_
    dsimp only
    split
    · exact .go _ ⟨_, rfl⟩
    · split
      · exact .go _ ⟨_, rfl⟩
      · exact (stepUp_blind c).bind ih s d

theorem enableScan_blind : Blind enableScan :=
  fun s d => (scanFree_blind scanFuel s.rxCur s d).bind fun _ _ _ => .go _ ⟨_, rfl⟩

/-- A diagnostic that is logged or not, by a test that does not see the trace, changes the trace alone. -/
theorem diag_if_withDiag (c : Prop) [Decidable c] (k : Diag) (s : State) (d : List Diag) :
    ∃ d', (if c then diag k { s with diagTrace := d } else { s with diagTrace := d }) =
      { (if c then diag k s else s) with diagTrace := d' } := by
  split <;> exact ⟨_, rfl⟩

theorem txCopy_blind (acc : List Byte) (x : Desc) : Blind (txCopy acc x) := by
  intro s d
  obtain ⟨d', hd⟩ := diag_if_withDiag (maxFrame s < acc.length + x.txSize) .txTooBig s d
  refine Flow.SameButDiag.bind (x := memRead _ _ (if maxFrame s < acc.length + x.txSize then _ else _)) ?_
    fun _ _ _ => .go _ ⟨_, rfl⟩
  rw [hd]
  exact memRead_blind _ _ _ _

theorem txSend_blind (acc : List Byte) (x : Desc) : Blind (txSend acc x) := by
  intro s d
  unfold txSend txCause
  split
  · split
    · exact .go _ ⟨_, rfl⟩
    · split <;> exact .go _ ⟨_, rfl⟩
  · exact .go _ ⟨_, rfl⟩

theorem txVisit_blind (acc : List Byte) (cur : Word) (x : Desc) : Blind (txVisit acc cur x) :=
  (txCopy_blind acc x).bind fun _ => (txSend_blind _ x).bind fun _ =>
    (writeDesc_blind cur x.handBack).bind fun _ s d =>
      (advance_blind cur x.handBack s.txBase s d).bind fun _ _ _ => .go _ ⟨_, rfl⟩

theorem txLoop_blind (fuel : Nat) (acc : List Byte) (cur : Word) : Blind (txLoop fuel acc cur) := by
  induction fuel generalizing acc cur with
  | zero => exact fun _ _ => .endless
  | succ fuel ih =>
    refine (readDesc_blind cur).bind fun x s d => ?_
    split
    · exact (txVisit_blind acc cur x).bind (fun next => ih next.1 next.2) s d
    · exact .go _ ⟨_, rfl⟩

theorem txKick_blind : Blind txKick :=
  fun s d => (locate_blind scanFuel s.txCur s d).bind fun cur =>
    (txLoop_blind walkFuel [] cur).bind fun _ _ _ => .go _ ⟨_, rfl⟩

theorem rxVisit_blind (first bc ftl : Bool) (rest : List Byte) (x : Desc) : Blind (rxVisit first bc ftl rest x) :=
  fun s d => (memWrite_blind x.buffer (rest.take (rxChunk s rest)) s d).bind fun _ s₁ d =>
    (writeDesc_blind s₁.rxCur _ s₁ d).bind fun _ s₂ d =>
      (advance_blind s₂.rxCur _ s₂.rxBase (cause _ s₂) d).bind fun _ _ _ => .go _ ⟨_, rfl⟩

theorem rxLoop_blind (bc ftl : Bool) (fuel : Nat) (first : Bool) (rest : List Byte) :
    Blind (rxLoop bc ftl fuel first rest) := by
  induction fuel generalizing first rest with
  | zero => exact fun _ _ => .endless
  | succ fuel ih =>
    intro s d
    unfold rxLoop
    split
    · exact .go _ ⟨_, rfl⟩
    · refine (readDesc_blind s.rxCur s d).bind fun x s d => ?_
      split
      · exact (rxVisit_blind first bc ftl rest x).bind (fun left => ih false left) s d
      · exact .go _ ⟨_, rfl⟩

theorem rxAccept_blind (frame : List Byte) : Blind (rxAccept frame) := by
  intro s d
  obtain ⟨d', hd⟩ := diag_if_withDiag (rxTooLong s frame = true) .rxTooBig s d
  refine Flow.SameButDiag.bind (x := rxLoop _ _ _ _ _ (if rxTooLong s frame then _ else _)) ?_
    fun _ => enableScan_blind
  rw [hd]
  exact rxLoop_blind _ _ _ _ _ _ _

/-! ### The PHY -/

/-- An update of the state that does not see the trace. -/
def BlindUpdate (f : State → State) : Prop :=
  ∀ (s : State) (d : List Diag), ∃ d', f { s with diagTrace := d } = { f s with diagTrace := d' }

theorem phyWrite_blind (reg : BitVec 5) (v : Half) : BlindUpdate (phyWrite reg v) := by
  intro s d
  unfold phyWrite phyWriteBmcr
  repeat' split
  all_goals exact ⟨_, rfl⟩

theorem phyReadEffect_blind (reg : BitVec 5) : BlindUpdate (phyReadEffect reg) := by
  intro s d
  unfold phyReadEffect
  repeat' split
  all_goals exact ⟨_, rfl⟩

theorem mdioAccess_blind (v : Word) : BlindUpdate (mdioAccess v) := by
  intro s d
  unfold mdioAccess
  split
  · obtain ⟨d', hd⟩ := phyWrite_blind (phycrReg v) (phydataWrite s.phydata) s d
    exact ⟨d', by simp only [hd]⟩
  · obtain ⟨d', hd⟩ := phyReadEffect_blind (phycrReg v) s d
    exact ⟨d', by simp only [hd]; rfl⟩

/-! ### Every operation -/

theorem maccrEnable_blind (old v : Word) : Blind (maccrEnable old v) := by
  intro s d
  unfold maccrEnable
  split
  · split
    · exact .go _ ⟨_, rfl⟩
    · exact enableScan_blind s d
  · exact .go _ ⟨_, rfl⟩

theorem opBody_blind (i : Instr) : Blind (opBody i) := by
  intro s d
  cases i
  case wrNptxpd =>
    unfold opBody
    dsimp only
    split
    · exact (txKick_blind s d).bind fun _ _ _ => .go _ ⟨_, rfl⟩
    · exact .go _ ⟨_, rfl⟩
  case hostDeliver f =>
    unfold opBody
    dsimp only
    split
    · exact (rxAccept_blind f s d).bind fun _ _ _ => .go _ ⟨_, rfl⟩
    · exact .go _ ⟨_, rfl⟩
  case wrMaccr v =>
    unfold opBody
    dsimp only
    split
    · exact .go _ ⟨_, rfl⟩
    · exact (maccrEnable_blind s.maccr v { s with maccr := v } d).bind fun _ _ _ => .go _ ⟨_, rfl⟩
  case wrNptxrBadr v | wrRxrBadr v =>
    unfold opBody
    dsimp only
    split
    · exact .go _ ⟨_, rfl⟩
    · exact raise_blind _ s d
  case wrPhycr v =>
    obtain ⟨d', hd⟩ := mdioAccess_blind v { s with phycr := v } d
    rw [opBody, hd]
    exact .go _ ⟨_, rfl⟩
  all_goals exact .go _ ⟨_, rfl⟩

/-- Endings that differ in the trace alone end an operation alike but for it. -/
theorem Flow.SameButDiag.withoutDiag_finish {x y : Flow Response} (h : Flow.SameButDiag x y) :
    withoutDiag (finish x) = withoutDiag (finish y) := by
  cases h with
  | go a h =>
    obtain ⟨d, rfl⟩ := h
    rfl
  | raised h =>
    obtain ⟨d, rfl⟩ := h
    rfl
  | endless => rfl

theorem withoutDiag_perform {body : State → Flow Response} (h : Blind body) (s : State) (d : List Diag) :
    withoutDiag (perform body { s with diagTrace := d }) = withoutDiag (perform body s) := by
  unfold perform
  dsimp only
  split
  · rfl
  · exact (h s d).withoutDiag_finish

end Sys2Proof.Machine

namespace Sys2Proof.Claims

open Sys2Proof.Machine

/-- Settles O29: every part of an operation is blind to the trace, the walks by induction on their count, and so is the whole
operation. -/
theorem diagnosticsAreInvisible : Obligations.DiagnosticsAreInvisible := by
  unfold Obligations.DiagnosticsAreInvisible
  intro i s d
  rw [exec_eq_perform, exec_eq_perform]
  exact withoutDiag_perform (opBody_blind i) s d

end Sys2Proof.Claims

/-! PROOFS. The invariant of the device's state, in three parts: what the engines work on (memory, ring bases, cursors), the
MAC's flags, and the PHY. Power-on meets each part, and every step keeps it. -/

namespace Sys2Proof.Machine

open Sys2Proof.Claims

/-! ### Memory and the rings -/

/-- What the engines work on: memory in its canonical form and mapped, ring bases and cursors aligned (R17, R21, R42). -/
structure DmaInv (bus : Bus) (mem : Memory) (txBase rxBase txCur rxCur : Word) : Prop where
  memCanonical : Memory.wf mem = true
  memMapped : ∀ c ∈ mem, hasMemory bus c.1 = true
  txBaseAligned : baseLow txBase = 0
  rxBaseAligned : baseLow rxBase = 0
  txCurAligned : baseLow txCur = 0
  rxCurAligned : baseLow rxCur = 0

abbrev State.DmaInv (s : State) : Prop :=
  Machine.DmaInv s.cfg.bus s.mem s.txBase s.rxBase s.txCur s.rxCur

/-- A write lists no address but the one written. -/
theorem Memory.mem_write {m : Memory} {a : Nat} {b : Byte} {c : Host.Cell} (h : c ∈ Memory.write m a b) :
    c ∈ m ∨ c.1 = a := by
  induction m with
  | nil =>
    simp only [Memory.write] at h
    split at h <;> simp_all
  | cons x t ih =>
    simp only [Memory.write] at h
    split at h
    · split at h
      · exact .inl h
      · rcases List.mem_cons.mp h with rfl | h
        · exact .inr rfl
        · exact .inl h
    · split at h
      · split at h
        · exact .inl (List.mem_cons_of_mem x h)
        · rcases List.mem_cons.mp h with rfl | h
          · exact .inr rfl
          · exact .inl (List.mem_cons_of_mem x h)
      · rcases List.mem_cons.mp h with rfl | h
        · exact .inl List.mem_cons_self
        · exact (ih h).imp_left (List.mem_cons_of_mem x)

/-- Bytes written through the bus list no address that has no memory (R42). -/
theorem busWriteBytes_mapped {b : Bus} {m : Memory} (a : Nat) (vs : List Byte)
    (h : ∀ c ∈ m, hasMemory b c.1 = true) : ∀ c ∈ busWriteBytes b m a vs, hasMemory b c.1 = true := by
  induction vs generalizing m a with
  | nil => exact h
  | cons v vs ih =>
    refine ih (a + 1) fun c hc => ?_
    unfold busWriteByte at hc
    split at hc
    · rcases Memory.mem_write hc with hc | rfl
      · exact h c hc
      · assumption
    · exact h c hc

/-- Bytes written through the bus keep what the engines work on. -/
theorem DmaInv.write {b : Bus} {m : Memory} {tb rb tc rc : Word} (h : DmaInv b m tb rb tc rc) (a : Nat)
    (vs : List Byte) : DmaInv b (busWriteBytes b m a vs) tb rb tc rc :=
  { h with
    memCanonical := busWriteBytes_wf b a vs h.memCanonical
    memMapped := busWriteBytes_mapped a vs h.memMapped }

theorem memWrite_dma {s : State} (h : s.DmaInv) (a : Nat) (bs : List Byte) :
    Flow.Post (fun _ => State.DmaInv) State.DmaInv (memWrite a bs s) := by
  rcases memWrite_cases a bs s with ⟨hw, -⟩ | ⟨hw, -⟩ <;> rw [hw]
  · exact h.write a bs
  · exact h

theorem readDesc_dma {s : State} (h : s.DmaInv) (a : Word) :
    Flow.Post (fun _ => State.DmaInv) State.DmaInv (readDesc a s) := by
  rcases readDesc_cases a s with ⟨hr, -⟩ | ⟨hr, -⟩ <;> rw [hr] <;> exact h

/-- The place after an aligned one is aligned (R47, R50). -/
theorem baseLow_add_sixteen {c : Word} (h : baseLow c = 0) : baseLow (c + 16#32) = 0 := by
  rw [baseLow_eq_zero_iff] at *
  bv_omega

theorem stepUp_dma {s : State} {cur : Word} (h : s.DmaInv) (hc : baseLow cur = 0) :
    Flow.Post (fun c t => t.DmaInv ∧ baseLow c = 0) State.DmaInv (stepUp cur s) := by
  rcases stepUp_cases cur s with ⟨hs, -⟩ | ⟨hs, -⟩ <;> rw [hs]
  · exact ⟨h, baseLow_add_sixteen hc⟩
  · exact h

/-- The ring cursor rule keeps the alignment (R47, R50). -/
theorem advance_dma {s : State} {cur base : Word} (d : Desc) (h : s.DmaInv) (hc : baseLow cur = 0)
    (hb : baseLow base = 0) :
    Flow.Post (fun c t => t.DmaInv ∧ baseLow c = 0) State.DmaInv (advance cur d base s) := by
  unfold advance
  split
  · exact ⟨h, hb⟩
  · exact stepUp_dma h hc

theorem locate_dma {s : State} (fuel : Nat) {c : Word} (h : s.DmaInv) (hc : baseLow c = 0) :
    Flow.Post (fun c t => t.DmaInv ∧ baseLow c = 0) State.DmaInv (locate fuel c s) := by
  induction fuel generalizing c s with
  | zero => trivial
  | succ fuel ih =>
    refine Flow.post_bind (readDesc_dma h c) fun d s h => ?_
    split
    · exact ⟨h, hc⟩
    · exact Flow.post_bind (stepUp_dma h hc) fun c s hcs => ih hcs.1 hcs.2

theorem txCopy_dma {s : State} (acc : List Byte) (d : Desc) (h : s.DmaInv) :
    Flow.Post (fun _ => State.DmaInv) State.DmaInv (txCopy acc d s) := by
  refine Flow.post_bind (Q' := fun _ => State.DmaInv) ?_ fun _ _ h => h
  have hd : (if maxFrame s < acc.length + d.txSize then diag .txTooBig s else s).DmaInv := by split <;> exact h
  rcases memRead_cases d.buffer (txCopyLen s acc d)
    (if maxFrame s < acc.length + d.txSize then diag .txTooBig s else s) with ⟨hr, -⟩ | ⟨hr, -⟩ <;> rw [hr] <;> exact hd

theorem txSend_dma {s : State} (acc : List Byte) (d : Desc) (h : s.DmaInv) :
    Flow.Post (fun _ => State.DmaInv) State.DmaInv (txSend acc d s) := by
  unfold txSend txCause
  split
  · show State.DmaInv _
    repeat' split
    all_goals exact h
  · exact h

theorem txVisit_dma {s : State} (acc : List Byte) {cur : Word} (d : Desc) (h : s.DmaInv) (hc : baseLow cur = 0) :
    Flow.Post (fun n t => t.DmaInv ∧ baseLow n.2 = 0) State.DmaInv (txVisit acc cur d s) := by
  refine Flow.post_bind (txCopy_dma acc d h) fun acc s h => ?_
  refine Flow.post_bind (txSend_dma acc d h) fun acc s h => ?_
  refine Flow.post_bind (memWrite_dma h _ _) fun _ s h => ?_
  exact Flow.post_bind (advance_dma _ h hc h.txBaseAligned) fun _ _ h => h

theorem txLoop_dma {s : State} (fuel : Nat) (acc : List Byte) {cur : Word} (h : s.DmaInv) (hc : baseLow cur = 0) :
    Flow.Post (fun c t => t.DmaInv ∧ baseLow c = 0) State.DmaInv (txLoop fuel acc cur s) := by
  induction fuel generalizing acc cur s with
  | zero => trivial
  | succ fuel ih =>
    refine Flow.post_bind (readDesc_dma h cur) fun d s h => ?_
    split
    · exact Flow.post_bind (txVisit_dma acc d h hc) fun n s hn => ih n.1 hn.1 hn.2
    · exact ⟨h, hc⟩

/-- A kick keeps what the engines work on, and persists an aligned cursor (R124). -/
theorem txKick_dma {s : State} (h : s.DmaInv) : Flow.Post (fun _ => State.DmaInv) State.DmaInv (txKick s) := by
  refine Flow.post_bind (locate_dma scanFuel h h.txCurAligned) fun c s hc => ?_
  refine Flow.post_bind (txLoop_dma walkFuel [] hc.1 hc.2) fun c s hc => ?_
  exact { hc.1 with txCurAligned := hc.2 }

theorem rxVisit_dma {s : State} (first bc ftl : Bool) (rest : List Byte) (d : Desc) (h : s.DmaInv) :
    Flow.Post (fun _ => State.DmaInv) State.DmaInv (rxVisit first bc ftl rest d s) := by
  refine Flow.post_bind (memWrite_dma h _ _) fun _ s h => ?_
  refine Flow.post_bind (memWrite_dma h _ _) fun _ s h => ?_
  refine Flow.post_bind (advance_dma _ (s := cause _ s) h h.rxCurAligned h.rxBaseAligned) fun c s hc => ?_
  exact { hc.1 with rxCurAligned := hc.2 }

theorem rxLoop_dma {s : State} (bc ftl : Bool) (fuel : Nat) (first : Bool) (rest : List Byte) (h : s.DmaInv) :
    Flow.Post (fun _ => State.DmaInv) State.DmaInv (rxLoop bc ftl fuel first rest s) := by
  induction fuel generalizing first rest s with
  | zero => trivial
  | succ fuel ih =>
    unfold rxLoop
    split
    · exact h
    · refine Flow.post_bind (readDesc_dma h s.rxCur) fun d s h => ?_
      split
      · exact Flow.post_bind (rxVisit_dma first bc ftl rest d h) fun left s h => ih false left h
      · exact h

theorem enableScan_dma {s : State} (h : s.DmaInv) : Flow.Post (fun _ => State.DmaInv) State.DmaInv (enableScan s) := by
  refine Flow.post_mono (enableScan_post s) ?_ ?_
  · rintro _ _ ⟨b, rfl⟩
    exact h
  · rintro _ ⟨k, rfl⟩
    exact h

/-- A delivery keeps what the engines work on (R144). -/
theorem rxAccept_dma {s : State} (frame : List Byte) (h : s.DmaInv) :
    Flow.Post (fun _ => State.DmaInv) State.DmaInv (rxAccept frame s) := by
  refine Flow.post_bind (rxLoop_dma _ _ _ _ _ ?_) fun _ s h => enableScan_dma h
  split <;> exact h

theorem PhyStep.dmaInv {s t : State} (h : PhyStep s t) (hs : s.DmaInv) : t.DmaInv := by
  obtain ⟨pc, st, ad, src, mask, isr, dg, -, rfl⟩ := h
  exact hs

theorem deviceReset_dma {s : State} (h : s.DmaInv) : (deviceReset s).DmaInv :=
  ⟨h.memCanonical, h.memMapped, rfl, rfl, rfl, rfl⟩

theorem opBody_dma (i : Instr) {s : State} (h : s.DmaInv) :
    Flow.Post (fun _ => State.DmaInv) State.DmaInv (opBody i s) := by
  cases i
  case wrNptxpd =>
    unfold opBody
    dsimp only
    split
    · exact Flow.post_bind (txKick_dma h) fun _ _ h => h
    · exact h
  case hostDeliver f =>
    unfold opBody
    dsimp only
    split
    · exact Flow.post_bind (rxAccept_dma f h) fun _ _ h => h
    · exact h
  case wrMaccr v =>
    unfold opBody maccrEnable
    dsimp only
    repeat' split
    · exact deviceReset_dma h
    · exact h
    · exact Flow.post_bind (enableScan_dma (s := { s with maccr := v }) h) fun _ _ h => h
    · exact h
  case wrNptxrBadr v =>
    unfold opBody
    dsimp only
    split
    · exact { h with txBaseAligned := ‹_›, txCurAligned := ‹_› }
    · exact h
  case wrRxrBadr v =>
    unfold opBody
    dsimp only
    split
    · exact { h with rxBaseAligned := ‹_›, rxCurAligned := ‹_› }
    · exact h
  case wrPhycr v =>
    obtain ⟨w, pd, hw, he⟩ := mdioAccess_step v { s with phycr := v }
    rw [opBody, he]
    exact hw.dmaInv h
  case hostReset => exact deviceReset_dma h
  all_goals exact h

theorem exec_dma {i : Instr} {s t : State} (h : s.DmaInv) (hx : exec i s = .next t) : t.DmaInv := by
  rw [exec_eq_perform] at hx
  obtain ⟨-, ⟨r, u, hu, rfl⟩ | ⟨u, hu, rfl⟩⟩ := perform_next_of_post (opBody_dma i h) hx
  · exact hu
  · exact hu

/-! ### The MAC's flags -/

/-- The reserved bits of R.ISR and the flags of MACCR and PHYCR (R18, R66, R130, R151). -/
structure MacInv (isr maccr phycr : Word) (rxEnabled : Bool) : Prop where
  isrReserved : isr &&& ~~~causeMask = 0#32
  enabledDma : rxEnabled = true → rxdmaEn maccr = true
  noSwRst : swRst maccr = false
  noMiiwr : phycr &&& miiwrBit = 0#32

abbrev State.MacInv (s : State) : Prop := Machine.MacInv s.isr s.maccr s.phycr s.rxEnabled

theorem evalIsr_reserved {isr : Word} (src mask : Byte) (h : isr &&& ~~~causeMask = 0#32) :
    evalIsr isr src mask &&& ~~~causeMask = 0#32 := by
  unfold evalIsr
  split
  · exact or_and_not_eq_zero h (by decide)
  · exact and_and_not_eq_zero h

theorem TxStep.macInv {s t : State} (h : TxStep s t) (hs : s.MacInv) : t.MacInv := by
  obtain ⟨m, o, x, dg, hx, rfl⟩ := h
  exact { hs with isrReserved := or_and_not_eq_zero hs.isrReserved (and_not_eq_zero_mono (by decide) hx) }

/-- A delivery that the device accepts runs while RXDMA_EN is set, so it may leave rxEnabled set (R130). -/
theorem RxStep.macInv {s t : State} (h : RxStep s t) (hs : s.MacInv) (he : s.rxEnabled = true) : t.MacInv := by
  obtain ⟨m, x, dg, c, e, hx, rfl⟩ := h
  exact { hs with
    isrReserved := or_and_not_eq_zero hs.isrReserved (and_not_eq_zero_mono (by decide) hx)
    enabledDma := fun _ => hs.enabledDma he }

theorem PhyStep.macInv {s t : State} (h : PhyStep s t) (hs : s.MacInv) : t.MacInv := by
  obtain ⟨pc, st, ad, src, mask, isr, dg, rfl | rfl, rfl⟩ := h
  · exact hs
  · exact { hs with isrReserved := evalIsr_reserved src mask hs.isrReserved }

/-- MIIWR is clear after every access: it was not set, or the access cleared it (R151). -/
theorem served_noMiiwr (v : Word) : (v &&& ~~~servedFlag v) &&& miiwrBit = 0#32 := by
  unfold servedFlag
  split
  · rw [BitVec.and_assoc, show ~~~miiwrBit &&& miiwrBit = 0#32 from rfl, BitVec.and_zero]
  · rename_i hw
    have hv : v &&& miiwrBit = 0#32 := by
      rw [show miiwrBit = BitVec.twoPow 32 27 from rfl, BitVec.and_twoPow]
      exact if_neg hw
    rw [BitVec.and_assoc, BitVec.and_comm _ miiwrBit, ← BitVec.and_assoc, hv, BitVec.zero_and]

/-- The reset values of the MAC's flags (R38). -/
theorem macInv_reset : MacInv 0#32 0#32 0#32 false := ⟨BitVec.zero_and, nofun, rfl, BitVec.zero_and⟩

theorem deviceReset_macInv (s : State) : (deviceReset s).MacInv := by
  rw [deviceReset_eq]
  exact macInv_reset

theorem Effect.macInv {i : Instr} {s u : State} (h : Effect i s u) (hs : s.MacInv) : u.MacInv := by
  cases i
  case wrIsr v =>
    subst h
    exact { hs with isrReserved := and_and_not_eq_zero hs.isrReserved }
  case wrNptxpd =>
    obtain ⟨-, rfl⟩ | ⟨-, w, cur, hw, rfl⟩ := h
    · exact hs
    · exact hw.macInv hs
  case hostDeliver =>
    obtain ⟨-, rfl⟩ | ⟨he, hu⟩ := h
    · exact hs
    · exact hu.macInv hs he
  case wrMaccr v =>
    obtain ⟨-, rfl⟩ | ⟨hv, b, hb, rfl⟩ | ⟨hv, hd, -, rfl⟩ := h
    · exact deviceReset_macInv _
    · exact { hs with noSwRst := hv, enabledDma := hb }
    · exact { hs with noSwRst := hv, enabledDma := fun _ => hd }
  case wrPhycr v =>
    obtain ⟨w, pd, hw, he⟩ := mdioAccess_step v { s with phycr := v }
    rw [Effect, he] at h
    subst h
    obtain ⟨pc, st, ad, src, mask, isr, dg, rfl | rfl, rfl⟩ := hw
    · exact { hs with noMiiwr := served_noMiiwr v }
    · exact { hs with noMiiwr := served_noMiiwr v, isrReserved := evalIsr_reserved src mask hs.isrReserved }
  case hostLink up =>
    subst h
    exact (phyUpdateLink_step { s with linkUp := up }).macInv hs
  case hostReset =>
    subst h
    exact deviceReset_macInv s
  case wrNptxrBadr | wrRxrBadr =>
    obtain ⟨-, rfl⟩ := h
    exact hs
  all_goals
    subst h
    exact hs

theorem Raises.macInv {i : Instr} {s u : State} (h : Raises i s u) (hs : s.MacInv) : u.MacInv := by
  obtain ⟨w, k, rfl | hw, rfl⟩ := h.effect
  · exact hs
  · exact hw.macInv hs

/-! ### The PHY -/

/-- The bits each PHY register can hold, and BMSR's link status (R32, R80, R154, R162 to R165). -/
structure PhyInv (phyControl phyStatus phyAdvertise : Half) (phyInt : Byte) (linkUp : Bool) : Prop where
  bmcrBits : phyControl &&& ~~~bmcrMask = 0#16
  bmsrBits : phyStatus &&& ~~~bmsrLinkBits = phyStatusReset
  bmsrLink : phyStatus.getLsbD 2 = linkUp
  anarBits : phyAdvertise &&& ~~~anarMask = anarAlways
  phyIntBits : phyInt &&& ~~~(phyIntUpBits ||| phyIntDownBits) = 0#8

abbrev State.PhyInv (s : State) : Prop :=
  Machine.PhyInv s.phyControl s.phyStatus s.phyAdvertise s.phyInt s.linkUp

/-- Re-deriving the link state keeps the PHY's bits, for whatever the link now is (R162). -/
theorem PhyInv.linked {pc st ad : Half} {src : Byte} {up : Bool} (h : PhyInv pc st ad src up) (up' : Bool) :
    PhyInv pc (linkedStatus up' st) ad (linkedInt up' src) up' := by
  cases up'
  · exact { h with
      bmsrBits := and_not_mask_and_not.trans h.bmsrBits
      bmsrLink := by simp [linkedStatus, bmsrLinkBits]
      phyIntBits := or_and_not_eq_zero h.phyIntBits (by decide) }
  · exact { h with
      bmsrBits := (or_and_not (by decide)).trans h.bmsrBits
      bmsrLink := by simp [linkedStatus, bmsrLinkBits]
      phyIntBits := or_and_not_eq_zero h.phyIntBits (by decide) }

/-- The PHY's reset values before the link state is derived (R163). -/
theorem phyInv_reset : PhyInv phyControlReset phyStatusReset phyAdvertiseReset 0#8 false :=
  ⟨rfl, rfl, rfl, rfl, rfl⟩

theorem phyReset_phyInv (s : State) : (phyReset s).PhyInv := phyInv_reset.linked s.linkUp

theorem phyWriteBmcr_phyInv {s : State} (v : Half) (h : s.PhyInv) : (phyWriteBmcr v s).PhyInv := by
  unfold phyWriteBmcr
  split
  · exact phyReset_phyInv s
  · have hmask : (v &&& bmcrMask) &&& ~~~bmcrMask = 0#16 := by
      rw [BitVec.and_comm v]
      exact and_and_not_eq_zero (by decide)
    split
    · exact { h with
        bmcrBits := hmask
        bmsrBits := (or_and_not (by decide)).trans h.bmsrBits
        bmsrLink := by simpa [bmsrAutoneg] using h.bmsrLink }
    · exact { h with bmcrBits := hmask }

/-- An ANAR write stores its mask with bit 7 set (R165). -/
theorem anar_bits (v : Half) : ((v &&& anarMask) ||| anarAlways) &&& ~~~anarMask = anarAlways := by
  rw [BitVec.or_comm, BitVec.and_comm v, or_and_not (and_and_not_eq_zero (by decide))]
  rfl

theorem phyWrite_phyInv {s : State} (reg : BitVec 5) (v : Half) (h : s.PhyInv) : (phyWrite reg v s).PhyInv := by
  unfold phyWrite
  split
  · exact phyWriteBmcr_phyInv v h
  · split
    · exact { h with anarBits := anar_bits v }
    · repeat' split
      all_goals exact h

theorem phyReadEffect_phyInv {s : State} (reg : BitVec 5) (h : s.PhyInv) : (phyReadEffect reg s).PhyInv := by
  unfold phyReadEffect
  split
  · exact { h with phyIntBits := BitVec.zero_and }
  · split <;> exact h

theorem mdioAccess_phyInv {s : State} (v : Word) (h : s.PhyInv) : (mdioAccess v s).PhyInv := by
  unfold mdioAccess
  split
  · exact phyWrite_phyInv _ _ h
  · exact phyReadEffect_phyInv _ h

theorem TxStep.phyInv {s t : State} (h : TxStep s t) (hs : s.PhyInv) : t.PhyInv := by
  obtain ⟨m, o, x, dg, -, rfl⟩ := h
  exact hs

theorem RxStep.phyInv {s t : State} (h : RxStep s t) (hs : s.PhyInv) : t.PhyInv := by
  obtain ⟨m, x, dg, c, e, -, rfl⟩ := h
  exact hs

theorem Effect.phyInv {i : Instr} {s u : State} (h : Effect i s u) (hs : s.PhyInv) : u.PhyInv := by
  cases i
  case wrNptxpd =>
    obtain ⟨-, rfl⟩ | ⟨-, w, cur, hw, rfl⟩ := h
    · exact hs
    · exact hw.phyInv hs
  case hostDeliver =>
    obtain ⟨-, rfl⟩ | ⟨-, hu⟩ := h
    · exact hs
    · exact hu.phyInv hs
  case wrMaccr v =>
    obtain ⟨-, rfl⟩ | ⟨-, b, -, rfl⟩ | ⟨-, -, -, rfl⟩ := h
    · exact phyReset_phyInv _
    · exact hs
    · exact hs
  case wrPhycr v =>
    subst h
    exact mdioAccess_phyInv v hs
  case hostLink up =>
    subst h
    exact hs.linked up
  case hostReset =>
    subst h
    exact phyReset_phyInv _
  case wrNptxrBadr | wrRxrBadr =>
    obtain ⟨-, rfl⟩ := h
    exact hs
  all_goals
    subst h
    exact hs

theorem Raises.phyInv {i : Instr} {s u : State} (h : Raises i s u) (hs : s.PhyInv) : u.PhyInv := by
  obtain ⟨w, k, rfl | hw, rfl⟩ := h.effect
  · exact hs
  · exact hw.phyInv hs

/-! ### The whole invariant -/

/-- The invariant is its three parts and the line's rule. -/
theorem State.inv_iff (s : State) :
    s.Inv ↔ s.DmaInv ∧ s.MacInv ∧ s.PhyInv ∧ (s.faulted = none → s.irqLevel = lineActive s) := by
  constructor
  · intro h
    exact ⟨{ h with }, { h with }, { h with }, h.lineFollows⟩
  · rintro ⟨hd, hm, hp, hl⟩
    exact { hd, hm, hp with lineFollows := hl }

/-- The invariant holds at power-on for every value of the parameters. -/
theorem powerOn_inv (p : Params) : (State.powerOn p).Inv := by
  rw [State.inv_iff]
  exact ⟨⟨rfl, nofun, rfl, rfl, rfl, rfl⟩, macInv_reset, phyInv_reset.linked p.linkInit,
    fun _ => by simp [State.powerOn, lineActive]⟩

/-- Every operation keeps the invariant, one that raises a model fault too. -/
theorem exec_inv {i : Instr} {s t : State} (hs : s.Inv) (h : exec i s = .next t) : t.Inv := by
  rw [State.inv_iff] at hs ⊢
  obtain ⟨hd, hm, hp, -⟩ := hs
  refine ⟨exec_dma hd h, ?_, ?_, exec_line h⟩
  · obtain ⟨-, ⟨r, u, hu, rfl⟩ | ⟨u, hu, rfl⟩⟩ := exec_next h
    · exact hu.macInv hm
    · exact hu.macInv hm
  · obtain ⟨-, ⟨r, u, hu, rfl⟩ | ⟨u, hu, rfl⟩⟩ := exec_next h
    · exact hu.phyInv hp
    · exact hu.phyInv hp

/-- The inputs still to come are no part of the invariant. -/
theorem State.Inv.withPending {s : State} (h : s.Inv) (l : List Input) : State.Inv { s with pending := l } := by
  rw [State.inv_iff] at h ⊢
  exact h

/-- A guest store keeps the invariant (R40, R82). -/
theorem guestStore_inv {s : State} (h : s.Inv) (a : Word) (bs : List Byte) : (guestStore a bs s).Inv := by
  rw [State.inv_iff] at h ⊢
  exact ⟨h.1.write a.toNat bs, h.2⟩

theorem runInput_inv {x : Input} {s t : State} (hs : s.Inv) (h : runInput x s = .next t) : t.Inv := by
  cases x with
  | op r =>
    unfold runInput runRequest at h
    dsimp only at h
    split at h
    · exact exec_inv hs h
    · simp at h
  | guestStore a bs =>
    obtain rfl : guestStore a bs s = t := by simpa [runInput] using h
    exact guestStore_inv hs a bs

theorem step_inv {s t : State} (hs : s.Inv) (h : step s = .next t) : t.Inv := by
  unfold step stepNext at h
  split at h
  · simp at h
  · split at h
    · obtain rfl : s = t := by simpa using h
      exact hs
    · exact runInput_inv (hs.withPending _) h

end Sys2Proof.Machine

namespace Sys2Proof.Claims

open Sys2Proof.Machine

/-- Settles O52, part by part. -/
theorem powerOnMeetsTheInvariant : Obligations.PowerOnMeetsTheInvariant := by
  unfold Obligations.PowerOnMeetsTheInvariant
  exact ⟨powerOn_inv, powerOn_inv Config.params⟩

/-- Settles O53: every operation keeps the three parts of the invariant and drives the line; a guest store writes memory
alone, through the bus; waiting changes nothing. -/
theorem stepKeepsTheInvariant : Obligations.StepKeepsTheInvariant := by
  unfold Obligations.StepKeepsTheInvariant
  intro s t hs h
  exact step_inv hs h

end Sys2Proof.Claims

/-! PROOFS. Memory through the bus and the shared operations, in the statements' own terms: what a read gives after a
write (R41, R42), the bytes of a descriptor (R45, R46), and when a range or a cursor step goes on (R47, R48). -/

namespace Sys2Proof.Machine

open Sys2Proof.Claims

/-! ### Canonical memories -/

/-- The first byte of a canonical memory is not the unlisted one, and the rest is canonical above its address. -/
theorem Memory.wfFrom_cons {lo k : Nat} {v : Byte} {t : Memory} (h : Memory.wfFrom lo ((k, v) :: t) = true) :
    v ≠ unlistedByte ∧ Memory.wfFrom (k + 1) t = true := by
  simp only [Memory.wfFrom, Bool.and_eq_true, bne_iff_ne] at h
  obtain ⟨⟨-, hv⟩, ht⟩ := h
  exact ⟨hv, ht⟩

/-- A canonical memory that reads as nothing written lists nothing. -/
theorem Memory.eq_nil_of_reads {lo : Nat} {m : Memory} (h : Memory.wfFrom lo m = true)
    (hr : ∀ a, Memory.read m a = unlistedByte) : m = [] := by
  cases m with
  | nil => rfl
  | cons c t => exact absurd (by simpa [Memory.read] using hr c.1) (Memory.wfFrom_cons h).1

/-- The first address of a canonical memory is the first at which it reads another byte than the unlisted one. -/
theorem Memory.first_le_of_reads {lo lo' k k' : Nat} {v v' : Byte} {t t' : Memory}
    (h : Memory.wfFrom lo ((k, v) :: t) = true) (h' : Memory.wfFrom lo' ((k', v') :: t') = true)
    (hr : ∀ a, Memory.read ((k, v) :: t) a = Memory.read ((k', v') :: t') a) : k' ≤ k := by
  by_contra hlt
  have hlow : Memory.read ((k', v') :: t') k = unlistedByte := by
    rw [Memory.read, if_neg (by omega)]
    exact Memory.read_below (Memory.wfFrom_cons h').2 (by omega)
  exact (Memory.wfFrom_cons h).1 (by simpa [Memory.read] using (hr k).trans hlow)

theorem Memory.eq_of_reads {lo lo' : Nat} {m m' : Memory} (h : Memory.wfFrom lo m = true)
    (h' : Memory.wfFrom lo' m' = true) (hr : ∀ a, Memory.read m a = Memory.read m' a) : m = m' := by
  induction m generalizing lo lo' m' with
  | nil => exact (Memory.eq_nil_of_reads h' fun a => (hr a).symm).symm
  | cons c t ih =>
    cases m' with
    | nil => exact Memory.eq_nil_of_reads h hr
    | cons c' t' =>
      obtain ⟨k, v⟩ := c
      obtain ⟨k', v'⟩ := c'
      obtain rfl : k = k' :=
        le_antisymm (Memory.first_le_of_reads h' h fun a => (hr a).symm) (Memory.first_le_of_reads h h' hr)
      obtain rfl : v = v' := by simpa [Memory.read] using hr k
      have ht := (Memory.wfFrom_cons h).2
      have ht' := (Memory.wfFrom_cons h').2
      rw [ih ht ht' fun a => ?_]
      by_cases ha : k = a
      · subst ha
        rw [Memory.read_below ht (by omega), Memory.read_below ht' (by omega)]
      · simpa [Memory.read, ha] using hr a

/-! ### The bus -/

/-- What the bus reads depends on the parameters and memory alone. -/
theorem busRead_congr {s t : State} (hc : t.cfg = s.cfg) (hm : t.mem = s.mem) (x : Nat) :
    busRead t x = busRead s x := by
  rw [busRead, busRead, hc, hm]

theorem busReadBytes_congr {s t : State} (hc : t.cfg = s.cfg) (hm : t.mem = s.mem) (a n : Nat) :
    busReadBytes t a n = busReadBytes s a n := by
  induction n generalizing a with
  | zero => rfl
  | succ n ih => rw [busReadBytes, busReadBytes, busRead_congr hc hm, ih]

theorem descAt_congr {s t : State} (hc : t.cfg = s.cfg) (hm : t.mem = s.mem) (a : Word) : descAt t a = descAt s a := by
  rw [descAt, descAt, busReadBytes_congr hc hm]

theorem endOfRing_congr {s t : State} (hc : t.cfg = s.cfg) (d : Desc) : endOfRing t d = endOfRing s d := by
  rw [endOfRing, endOfRing, hc]

/-- A read at an address with no memory does not depend on what was written (R40, R42). -/
theorem busRead_hole {s : State} {x : Nat} (h : hasMemory s.cfg.bus x = false) :
    busRead s x = fillByte s.cfg.bus.fill x := by
  rw [busRead, h, if_neg Bool.false_ne_true]

section Written

variable {s t : State} {a : Nat} {vs : List Byte}

/-- Outside the range written the bus reads as before (R42). -/
theorem busRead_written_outside (hw : Memory.wf s.mem = true) (hc : t.cfg = s.cfg)
    (ht : t.mem = busWriteBytes s.cfg.bus s.mem a vs) {x : Nat} (hx : x < a ∨ a + vs.length ≤ x) :
    busRead t x = busRead s x := by
  rw [busRead, busRead, hc, ht, read_busWriteBytes_outside s.cfg.bus a x vs hw hx]

/-- Where the bus has memory it reads the byte written (R42). -/
theorem busRead_written_inside (hw : Memory.wf s.mem = true) (hc : t.cfg = s.cfg)
    (ht : t.mem = busWriteBytes s.cfg.bus s.mem a vs) {i : Nat} (hi : i < vs.length)
    (hm : hasMemory s.cfg.bus (a + i) = true) : busRead t (a + i) = vs[i] := by
  rw [busRead, hc, ht, hm, if_pos rfl, read_busWriteBytes_inside s.cfg.bus a i vs hw hi hm]

/-- Where the bytes written are those that were there, the bus reads as before, memory or not. -/
theorem busRead_written_same (hw : Memory.wf s.mem = true) (hc : t.cfg = s.cfg)
    (ht : t.mem = busWriteBytes s.cfg.bus s.mem a vs) {x i : Nat} (hx : x = a + i)
    (hi : vs[i]? = some (busRead s x)) : busRead t x = busRead s x := by
  subst hx
  obtain ⟨hlt, hb⟩ := List.getElem?_eq_some_iff.mp hi
  cases hm : hasMemory s.cfg.bus (a + i) with
  | true => rw [busRead_written_inside hw hc ht hlt hm, hb]
  | false => rw [busRead_hole hm, busRead_hole (by rw [hc]; exact hm), hc]

/-- Bytes written to memory read back whole (R42). -/
theorem busReadBytes_written (hw : Memory.wf s.mem = true) (hc : t.cfg = s.cfg)
    (ht : t.mem = busWriteBytes s.cfg.bus s.mem a vs) (hm : ∀ i < vs.length, hasMemory s.cfg.bus (a + i) = true) :
    busReadBytes t a vs.length = vs := by
  refine List.ext_getElem (busReadBytes_length ..) fun i hi hi' => ?_
  have hr := busReadBytes_getElem? t a vs.length i hi'
  rw [busRead_written_inside hw hc ht hi' (hm i hi')] at hr
  exact (List.getElem?_eq_some_iff.mp hr).2

end Written

/-! ### The bytes of a descriptor -/

@[simp] theorem bytesOfWord_wordOfBytes (b0 b1 b2 b3 : Byte) :
    bytesOfWord (wordOfBytes b0 b1 b2 b3) = [b0, b1, b2, b3] := by
  simp only [bytesOfWord, wordOfBytes, List.cons.injEq, and_true]
  refine ⟨?_, ?_, ?_, ?_⟩ <;> ext i hi <;> simp only [BitVec.getElem_extractLsb', BitVec.getLsbD_append] <;>
    simp [hi, show ¬ 8 + i < 8 by omega, show ¬ 16 + i < 8 by omega, show ¬ 24 + i < 8 by omega,
      show 16 + i - 8 = 8 + i by omega, show 24 + i - 8 = 16 + i by omega]

/-- Reading a descriptor and encoding it gives the sixteen bytes read (R45, R46). -/
theorem bytesOfDesc_descAt (s : State) (a : Word) : bytesOfDesc (descAt s a) = busReadBytes s a.toNat 16 := by
  simp [descAt, busReadBytes, descOfBytes, bytesOfDesc]

/-- Byte `4i + j` of words in memory order is byte `j` of word `i` (R46). -/
theorem flatMap_bytesOfWord_getElem? (ws : List Word) (i : Nat) {j : Nat} (hj : j < 4) :
    (ws.flatMap bytesOfWord)[4 * i + j]? = ws[i]?.map (byteOf · j) := by
  induction ws generalizing i with
  | nil => simp
  | cons w ws ih =>
    rw [List.flatMap_cons]
    cases i with
    | zero =>
      rw [Nat.mul_zero, Nat.zero_add, List.getElem?_append_left (by simpa using hj)]
      exact bytesOfWord_getElem? w j hj
    | succ i =>
      rw [List.getElem?_append_right (by simp; omega), List.getElem?_cons_succ, ← ih]
      congr 1
      simp only [bytesOfWord_length]
      omega

theorem bytesOfDesc_getElem? (d : Desc) {i j : Nat} (hi : i < 4) (hj : j < 4) :
    (bytesOfDesc d)[4 * i + j]? = some (byteOf ((wordsOf d).getD i 0#32) j) := by
  have hb : bytesOfDesc d = (wordsOf d).flatMap bytesOfWord := by simp [bytesOfDesc, wordsOf]
  have hi' : i < (wordsOf d).length := hi
  rw [hb, flatMap_bytesOfWord_getElem? _ i hj, List.getD_eq_getElem _ _ hi', List.getElem?_eq_getElem hi']
  rfl

/-- Handing a descriptor back clears bit 7 of its byte 3 and nothing else (R122). -/
theorem bytesOfDesc_released (d : Desc) : bytesOfDesc (released d) = (bytesOfDesc d).modify 3 (· &&& 0x7F#8) := by
  have hff (b : Byte) : b &&& 0xFF#8 = b := BitVec.and_allOnes
  simp [bytesOfDesc, bytesOfWord, released, BitVec.extractLsb'_and, hff]

/-- A write-back changes word 0 alone (R141). -/
theorem bytesOfDesc_stamped (d : Desc) (n : Nat) (first final bc ftl : Bool) {i : Nat} (hi : 4 ≤ i) :
    (bytesOfDesc (stamped d n first final bc ftl))[i]? = (bytesOfDesc d)[i]? := by
  have hw (e : Desc) : (bytesOfDesc e)[i]? = (bytesOfWord e.w1 ++ bytesOfWord e.w2 ++ bytesOfWord e.w3)[i - 4]? := by
    rw [bytesOfDesc, List.append_assoc, List.append_assoc, List.getElem?_append_right hi, List.append_assoc]
    rfl
  rw [hw, hw]
  rfl

/-- Byte `4i + j` of a descriptor read is byte `j` of its word `i` (R45). -/
theorem byteOf_descAt (s : State) (a : Word) {i j : Nat} (hi : i < 4) (hj : j < 4) :
    byteOf ((wordsOf (descAt s a)).getD i 0#32) j = busRead s (a.toNat + 4 * i + j) := by
  have h := bytesOfDesc_getElem? (descAt s a) hi hj
  rw [bytesOfDesc_descAt, busReadBytes_getElem? s a.toNat 16 (4 * i + j) (by omega)] at h
  simpa [Nat.add_assoc] using h.symm

/-- The ownership bit is bit 7 of the descriptor's byte 3 (R73, R76). -/
theorem owned_descAt (s : State) (a : Word) : owned (descAt s a) = (busRead s (a.toNat + 3)).getLsbD 7 := by
  rw [← byteOf_descAt s a (i := 0) (j := 3) (by decide) (by decide)]
  simp [byteOf, owned, wordsOf]

/-! ### Descriptor fields in the statements' terms -/

/-- A one-bit mask tests that bit. -/
theorem and_twoPow_bne_zero (w : Word) {i : Nat} (hi : i < 32) :
    ((w &&& BitVec.twoPow 32 i) != 0#32) = w.getLsbD i := by
  rw [BitVec.and_twoPow]
  split
  · rename_i h
    rw [h, bne_iff_ne]
    intro h0
    have := congrArg (·.getLsbD i) h0
    simp [hi] at this
  · simp_all

/-- The model's end-of-ring test is the statements' one (R78). -/
theorem eor_eq_endOfRing (s : State) (d : Desc) : d.eor s.cfg.variant = endOfRing s d := by
  unfold Desc.eor endOfRing
  cases s.cfg.variant with
  | faraday => exact and_twoPow_bne_zero d.w0 (i := 15) (by decide)
  | aspeed => exact and_twoPow_bne_zero d.w0 (i := 30) (by decide)

theorem txSize_eq_sizeField (d : Desc) : d.txSize = sizeField d := by
  simp [Desc.txSize, sizeField]

/-- Clearing OWN keeps the end-of-ring bit (R122). -/
@[simp] theorem endOfRing_released (s : State) (d : Desc) : endOfRing s (released d) = endOfRing s d := by
  unfold endOfRing
  cases s.cfg.variant <;> simp [released]

/-- A write-back of fewer than 2^14 bytes keeps the two end-of-ring bits and clears bit 31 (R76, R141). -/
theorem stamped_bit (d : Desc) {n b : Nat} (hn : n < 2 ^ 14) (hb : b = 15 ∨ b = 30 ∨ b = 31)
    (first final bc ftl : Bool) :
    (stamped d n first final bc ftl).w0.getLsbD b = (d.w0.getLsbD b && decide (b ≠ 31)) := by
  have hnb : (BitVec.ofNat 32 n).getLsbD b = false := by
    rw [BitVec.getLsbD_ofNat, Nat.testBit_lt_two_pow (hn.trans_le (Nat.pow_le_pow_right (by decide) (by omega))),
      Bool.and_false]
  rcases hb with rfl | rfl | rfl
  · simp_all [stamped, apply_ite (fun w : Word => w[15])]
  · simp_all [stamped, apply_ite (fun w : Word => w[30])]
  · simp_all [stamped, apply_ite (fun w : Word => w[31])]

theorem endOfRing_stamped (s : State) (d : Desc) {n : Nat} (hn : n < 2 ^ 14) (first final bc ftl : Bool) :
    endOfRing s (stamped d n first final bc ftl) = endOfRing s d := by
  unfold endOfRing
  cases s.cfg.variant
  · rw [stamped_bit d hn (.inl rfl)]
    simp
  · rw [stamped_bit d hn (.inr (.inl rfl))]
    simp

theorem owned_stamped (d : Desc) {n : Nat} (hn : n < 2 ^ 14) (first final bc ftl : Bool) :
    owned (stamped d n first final bc ftl) = false := by
  rw [owned, stamped_bit d hn (.inr (.inr rfl))]
  simp

/-! ### Ranges and cursor steps -/

theorem memRead_go {s : State} {a n : Nat} (h : n = 0 ∨ a + n ≤ 2 ^ 32) :
    memRead a n s = .go (busReadBytes s a n) s := by
  rcases memRead_cases a n s with ⟨hr, -⟩ | ⟨-, hn, hr⟩
  · exact hr
  · exact (h.elim hn hr.not_ge).elim

theorem memRead_past {s : State} {a n : Nat} (hn : 0 < n) (h : 2 ^ 32 < a + n) :
    memRead a n s = .raised { s with faulted := some (.addrWrap a n) } := by
  rcases memRead_cases a n s with ⟨-, hr⟩ | ⟨hr, -⟩
  · exact (hr.elim hn.ne' h.not_ge).elim
  · exact hr

theorem memWrite_go {s : State} {a : Nat} {bs : List Byte} (h : bs = [] ∨ a + bs.length ≤ 2 ^ 32) :
    memWrite a bs s = .go () { s with mem := busWriteBytes s.cfg.bus s.mem a bs } := by
  rcases memWrite_cases a bs s with ⟨hr, -⟩ | ⟨-, hn, hr⟩
  · exact hr
  · exact (h.elim hn hr.not_ge).elim

theorem memWrite_past {s : State} {a : Nat} {bs : List Byte} (hn : bs ≠ []) (h : 2 ^ 32 < a + bs.length) :
    memWrite a bs s = .raised { s with faulted := some (.addrWrap a bs.length) } := by
  rcases memWrite_cases a bs s with ⟨-, hr⟩ | ⟨hr, -⟩
  · exact (hr.elim hn h.not_ge).elim
  · exact hr

theorem readDesc_go {s : State} {a : Word} (h : a.toNat + 16 ≤ 2 ^ 32) : readDesc a s = .go (descAt s a) s := by
  rcases readDesc_cases a s with ⟨hr, -⟩ | ⟨-, hr⟩
  · exact hr
  · exact (hr.not_ge h).elim

theorem writeDesc_go {s : State} {a : Word} (d : Desc) (h : a.toNat + 16 ≤ 2 ^ 32) :
    writeDesc a d s = .go () { s with mem := withDesc s s.mem a d } := by
  rcases writeDesc_cases a d s with ⟨hr, -⟩ | ⟨-, hr⟩
  · exact hr
  · exact (hr.not_ge h).elim

theorem stepUp_go {s : State} {c : Word} (h : c.toNat + 16 < 2 ^ 32) : stepUp c s = .go (c + 16#32) s := by
  rcases stepUp_cases c s with ⟨hr, -⟩ | ⟨-, hr⟩
  · exact hr
  · exact (hr.not_gt h).elim

theorem stepUp_past {s : State} {c : Word} (h : 2 ^ 32 ≤ c.toNat + 16) :
    stepUp c s = .raised { s with faulted := some (.addrWrap (c.toNat + 16) 16) } := by
  rcases stepUp_cases c s with ⟨-, hr⟩ | ⟨hr, -⟩
  · exact (hr.not_ge h).elim
  · exact hr

/-- The ring cursor rule moves to the next place (R47). -/
theorem advance_go {s : State} {c base : Word} {d : Desc} (h : endOfRing s d = true ∨ c.toNat + 16 < 2 ^ 32) :
    advance c d base s = .go (nextPlace s c d base) s := by
  unfold advance nextPlace
  rw [eor_eq_endOfRing]
  split
  · rfl
  · exact stepUp_go (h.resolve_left ‹_›)

/-- Past the top the ring cursor rule has no next place (R48). -/
theorem advance_past {s : State} {c base : Word} {d : Desc} (he : endOfRing s d = false) (h : 2 ^ 32 ≤ c.toNat + 16) :
    advance c d base s = .raised { s with faulted := some (.addrWrap (c.toNat + 16) 16) } := by
  rw [advance, eor_eq_endOfRing, he, if_neg Bool.false_ne_true]
  exact stepUp_past h

/-- The next place is aligned where cursor and base are (R47, R50). -/
theorem nextPlace_aligned {s : State} {c base : Word} {d : Desc} (hc : baseLow c = 0) (hb : baseLow base = 0) :
    baseLow (nextPlace s c d base) = 0 := by
  unfold nextPlace
  split
  · exact hb
  · exact baseLow_add_sixteen hc

/-- A descriptor fits at every aligned place (R48, R50). -/
theorem aligned_fits {c : Word} (hc : baseLow c = 0) : c.toNat + 16 ≤ 2 ^ 32 := by
  rw [baseLow_eq_zero_iff] at hc
  omega

/-! ### An operation that returns nothing -/

section Silent

variable {i : Instr} {s t : State} {x : Flow Unit} (hx : opBody i s = x.bind fun _ u => .go .nothing u)

include hx

/-- Where its body ends, raising or not, an operation answers a next state (R44). -/
theorem exec_silent_ends (hf : s.faulted = none) (he : x ≠ .endless) : ∃ t, exec i s = .next t := by
  rw [exec_running hf, hx]
  cases x with
  | go r u => exact ⟨_, rfl⟩
  | raised u => exact ⟨_, rfl⟩
  | endless => exact absurd rfl he

/-- What its body can do, and the end of the operation (R114, R177). -/
theorem exec_silent_post {Q E : State → Prop} (hp : Flow.Post (fun _ => Q) E x) (h : exec i s = .next t) :
    (∃ u, Q u ∧ t = { irqUpdate u with response := .nothing }) ∨ (∃ u, E u ∧ t = { u with response := .nothing }) := by
  rw [exec_eq_perform] at h
  obtain ⟨-, ⟨r, u, hu, rfl⟩ | ⟨u, hu, rfl⟩⟩ := perform_next h <;> rw [hx] at hu
  · obtain ⟨_, _, rfl, hru⟩ := Flow.bind_eq_go.mp hu
    obtain ⟨rfl, rfl⟩ := Flow.go.inj hru
    exact .inl ⟨_, hp, rfl⟩
  · obtain rfl | ⟨_, _, -, hru⟩ := Flow.bind_eq_raised.mp hu
    · exact .inr ⟨_, hp, rfl⟩
    · cases hru

end Silent

end Sys2Proof.Machine

namespace Sys2Proof.Claims

open Sys2Proof.Machine

/-- Settles O47: byte `4i + j` read or written is byte `j` of word `i`, and decoding undoes encoding. -/
theorem descriptorRoundTrip : Obligations.DescriptorRoundTrip := by
  unfold Obligations.DescriptorRoundTrip
  refine ⟨fun s a ha => ⟨_, readDesc_go ha, fun i hi j hj => byteOf_descAt s a hi hj⟩, fun s a d hw ha hm => ?_⟩
  have hfit : a.toNat + 16 ≤ 2 ^ 32 := by omega
  obtain ⟨t, ht⟩ : ∃ t, t = { s with mem := withDesc s s.mem a d } := ⟨_, rfl⟩
  have hc : t.cfg = s.cfg := by rw [ht]
  have hmem : t.mem = busWriteBytes s.cfg.bus s.mem a.toNat (bytesOfDesc d) := by rw [ht, withDesc]
  refine ⟨t, ht ▸ writeDesc_go d hfit, ?_, fun i hi j hj => ?_⟩
  · rw [readDesc_go hfit, descAt, ← bytesOfDesc_length d, busReadBytes_written hw hc hmem hm, descOfBytes_bytesOfDesc]
  · obtain ⟨hlt, hb⟩ := List.getElem?_eq_some_iff.mp (bytesOfDesc_getElem? d hi hj)
    rw [← hb, Nat.add_assoc]
    exact busRead_written_inside hw hc hmem hlt (hm _ hlt)

/-- Settles O48: reads in order, and a write by address: outside its range, inside it, and where there is no memory. -/
theorem busWriteReadsBackAndLeavesTheRest : Obligations.BusWriteReadsBackAndLeavesTheRest := by
  unfold Obligations.BusWriteReadsBackAndLeavesTheRest
  refine ⟨fun s a n => ⟨busReadBytes_length s a n, busReadBytes_getElem? s a n⟩, fun s t a bytes hw h => ?_⟩
  obtain ⟨h', -⟩ | ⟨h', -⟩ := memWrite_cases a bytes s
  · have ht : { s with mem := busWriteBytes s.cfg.bus s.mem a bytes } = t := (Flow.go.inj (h'.symm.trans h)).2
    have hc : t.cfg = s.cfg := by rw [← ht]
    have hm : t.mem = busWriteBytes s.cfg.bus s.mem a bytes := by rw [← ht]
    refine ⟨fun x => busRead_written_outside hw hc hm, fun k => busRead_written_inside hw hc hm, fun k hk => ?_, ?_⟩
    · rw [← hc] at hk ⊢
      exact busRead_hole hk
    · rw [← ht]
  · simp [h'] at h

/-- Settles O49, clause by clause. -/
theorem rangePastTheTopRaisesAddrWrap : Obligations.RangePastTheTopRaisesAddrWrap := by
  unfold Obligations.RangePastTheTopRaisesAddrWrap
  refine fun s => ⟨fun a n => memRead_past, fun a n => memRead_go, fun a bs => memWrite_past, fun a bs => memWrite_go,
    fun c => stepUp_past, fun c hc => ?_⟩
  rw [stepUp_go hc, BitVec.ofNat_add, BitVec.ofNat_toNat, BitVec.setWidth_eq]

/-- Settles O50: the variant selects the bit that the cursor rule tests. -/
theorem ringCursorFollowsTheVariant : Obligations.RingCursorFollowsTheVariant := by
  unfold Obligations.RingCursorFollowsTheVariant
  intro s cur base d hc
  rw [advance_go (.inr hc), nextPlace, endOfRing]
  exact ⟨fun hv => by rw [hv], fun hv => by rw [hv]⟩

/-- Settles O51: by induction, each entry of the one list is the first that the other's reads show. -/
theorem canonicalMemoriesReadingAlikeAreEqual : Obligations.CanonicalMemoriesReadingAlikeAreEqual := by
  unfold Obligations.CanonicalMemoriesReadingAlikeAreEqual
  exact fun m m' => Memory.eq_of_reads

/-- Settles O6: the step takes the oldest input, decodes it and runs it. -/
theorem stepRunsTheDecodedOperation : Obligations.StepRunsTheDecodedOperation := by
  unfold Obligations.StepRunsTheDecodedOperation
  intro s r rest i hf hp hd
  simp only [step, stepNext, hf, hp, runInput, runRequest, hd]

/-- Settles O7: nothing pending, and a guest store as the oldest input. -/
theorem stepWaitsOrLetsTheGuestStore : Obligations.StepWaitsOrLetsTheGuestStore := by
  unfold Obligations.StepWaitsOrLetsTheGuestStore
  intro s hf
  constructor
  · intro hp
    simp only [step, stepNext, hf, hp]
  · intro addr bytes rest hp
    simp only [step, stepNext, hf, hp, runInput, guestStore]

end Sys2Proof.Claims

/-! PROOFS. The two scans upward (R117, R133) are one: from a place on to the first descriptor that stops the scan, or
past the top of the address space (R48). -/

namespace Sys2Proof.Machine

open Sys2Proof.Claims

/-- A scan upward to the first descriptor at which `stop` holds; it answers that place. -/
def scanUp (stop : Desc → Bool) : Nat → Word → State → Flow Word
  | 0, _, _ => .endless
  | fuel + 1, c, s =>
    (readDesc c s).bind fun d s =>
      if stop d then .go c s else (stepUp c s).bind fun c' s => scanUp stop fuel c' s

/-- A descriptor at which the locate scan stops: FTS or the end-of-ring bit (R117). -/
def locateStop (s : State) (d : Desc) : Bool := d.w0.getLsbD 29 || endOfRing s d

/-- A descriptor at which the enable scan stops: free or the end-of-ring bit (R133). -/
def freeStop (s : State) (d : Desc) : Bool := owned d || endOfRing s d

theorem locateStop_eq_true (s : State) (d : Desc) : locateStop s d = true ↔ ¬ locateSkips s d := by
  unfold locateStop locateSkips
  cases d.w0.getLsbD 29 <;> cases endOfRing s d <;> decide

theorem locateStop_eq_false (s : State) (d : Desc) : locateStop s d = false ↔ locateSkips s d := by
  rw [← Bool.not_eq_true, locateStop_eq_true, not_not]

theorem freeStop_eq_true (s : State) (d : Desc) : freeStop s d = true ↔ owned d = true ∨ endOfRing s d = true := by
  rw [freeStop, Bool.or_eq_true]

theorem freeStop_eq_false (s : State) (d : Desc) : freeStop s d = false ↔ owned d = false ∧ endOfRing s d = false :=
  Bool.or_eq_false_iff

/-- The locate scan as a scan upward (R117). -/
theorem locate_eq_scanUp (fuel : Nat) (c : Word) (s : State) : locate fuel c s = scanUp (locateStop s) fuel c s := by
  induction fuel generalizing c with
  | zero => rfl
  | succ fuel ih =>
    unfold locate scanUp
    rcases readDesc_cases c s with ⟨h, -⟩ | ⟨h, -⟩ <;> rw [h]
    · rw [Flow.bind_go, Flow.bind_go, eor_eq_endOfRing]
      rcases stepUp_cases c s with ⟨h, -⟩ | ⟨h, -⟩ <;> rw [h]
      · rw [Flow.bind_go, Flow.bind_go, ih]
        rfl
      · rfl
    · rfl

/-- The walk of the enable scan as a scan upward: it answers whether the descriptor it stops at is free (R133). -/
theorem scanFree_eq_scanUp (fuel : Nat) (c : Word) (s : State) :
    scanFree fuel c s = (scanUp (freeStop s) fuel c s).bind fun c s => .go (owned (descAt s c)) s := by
  induction fuel generalizing c with
  | zero => rfl
  | succ fuel ih =>
    unfold scanFree scanUp
    rcases readDesc_cases c s with ⟨-, hc⟩ | ⟨h, -⟩
    · have hown : (descAt s c).own = owned (descAt s c) := rfl
      rw [readDesc_go (a := c) hc, Flow.bind_go, Flow.bind_go, eor_eq_endOfRing, hown]
      cases ho : owned (descAt s c) with
      | true => simp [freeStop, ho]
      | false =>
        cases he : endOfRing s (descAt s c) with
        | true => simp [freeStop, ho, he]
        | false => rcases stepUp_cases c s with ⟨h, -⟩ | ⟨h, -⟩ <;> simp [h, ih, freeStop, ho, he]
    · rw [h]
      rfl

@[simp] theorem placeAt_zero (s : State) (c : Word) : placeAt s c 0 = descAt s c := by
  simp [placeAt]

/-- The places above the next one. -/
theorem placeAt_next (s : State) (c : Word) (k : Nat) : placeAt s (c + 16#32) k = placeAt s c (k + 1) := by
  rw [placeAt, placeAt, BitVec.add_assoc, Nat.mul_succ, BitVec.ofNat_add, BitVec.add_comm 16#32]

section ScanUp

variable {stop : Desc → Bool} {s : State}

/-- One place of a scan upward: it stops there. -/
theorem scanUp_stop {c : Word} (fuel : Nat) (hc : c.toNat + 16 ≤ 2 ^ 32) (h : stop (descAt s c) = true) :
    scanUp stop (fuel + 1) c s = .go c s := by
  rw [scanUp, readDesc_go hc, Flow.bind_go, if_pos h]

/-- One place of a scan upward: it goes on to the next. -/
theorem scanUp_next {c : Word} (fuel : Nat) (hc : c.toNat + 16 < 2 ^ 32) (h : stop (descAt s c) = false) :
    scanUp stop (fuel + 1) c s = scanUp stop fuel (c + 16#32) s := by
  rw [scanUp, readDesc_go hc.le, Flow.bind_go, h, if_neg Bool.false_ne_true, stepUp_go hc, Flow.bind_go]

/-- The last place of the address space: a scan that does not stop there raises F_ADDR_WRAP (R48). -/
theorem scanUp_top {c : Word} (fuel : Nat) (hc : c.toNat + 16 = 2 ^ 32) (h : stop (descAt s c) = false) :
    scanUp stop (fuel + 1) c s = .raised { s with faulted := some (.addrWrap (2 ^ 32) 16) } := by
  rw [scanUp, readDesc_go hc.le, Flow.bind_go, h, if_neg Bool.false_ne_true, stepUp_past hc.ge, hc, Flow.bind_raised]

/-- A scan upward that stops `m` places on. -/
theorem scanUp_of_stops (m : Nat) {fuel : Nat} {c : Word} (hf : m < fuel) (hc : c.toNat + 16 * m + 16 ≤ 2 ^ 32)
    (hskip : ∀ k < m, stop (placeAt s c k) = false) (hstop : stop (placeAt s c m) = true) :
    scanUp stop fuel c s = .go (c + BitVec.ofNat 32 (16 * m)) s := by
  induction m generalizing fuel c with
  | zero =>
    obtain ⟨fuel, rfl⟩ := Nat.exists_eq_add_one_of_ne_zero hf.ne'
    rw [scanUp_stop fuel hc (by simpa using hstop)]
    simp
  | succ m ih =>
    obtain ⟨fuel, rfl⟩ := Nat.exists_eq_add_one_of_ne_zero (Nat.ne_zero_of_lt hf)
    have hn : (c + 16#32).toNat = c.toNat + 16 := stepUp_toNat c (by simp only [descSize, addrSpace]; omega)
    have hgo := ih (fuel := fuel) (c := c + 16#32) (by omega) (by omega)
      (fun k hk => by rw [placeAt_next]; exact hskip (k + 1) (by omega)) (by rw [placeAt_next]; exact hstop)
    rw [scanUp_next fuel (by omega) (by simpa using hskip 0 m.succ_pos), hgo, BitVec.add_assoc, Nat.mul_succ,
      BitVec.ofNat_add, BitVec.add_comm 16#32]

/-- A scan upward from an aligned place that nothing stops raises F_ADDR_WRAP at the top (R48). -/
theorem scanUp_past_top {fuel : Nat} {c : Word} (hc : c.toNat % 16 = 0) (hf : 2 ^ 32 < c.toNat + 16 * fuel)
    (hskip : ∀ k, c.toNat + 16 * k + 16 ≤ 2 ^ 32 → stop (placeAt s c k) = false) :
    scanUp stop fuel c s = .raised { s with faulted := some (.addrWrap (2 ^ 32) 16) } := by
  induction fuel generalizing c with
  | zero => omega
  | succ fuel ih =>
    have h0 : stop (descAt s c) = false := by simpa using hskip 0 (by omega)
    by_cases hlast : c.toNat + 16 = 2 ^ 32
    · exact scanUp_top fuel hlast h0
    · have hn : (c + 16#32).toNat = c.toNat + 16 := stepUp_toNat c (by simp only [descSize, addrSpace]; omega)
      rw [scanUp_next fuel (by omega) h0]
      refine ih (by omega) (by omega) fun k hk => ?_
      rw [placeAt_next]
      exact hskip (k + 1) (by omega)

/-- A scan upward from an aligned place, on more steps than there are places, stops or raises at the top. -/
theorem scanUp_cases {c : Word} (hc : c.toNat % 16 = 0) :
    (∃ m, (c.toNat + 16 * m + 16 ≤ 2 ^ 32 ∧ (∀ k < m, stop (placeAt s c k) = false) ∧ stop (placeAt s c m) = true) ∧
      scanUp stop scanFuel c s = .go (c + BitVec.ofNat 32 (16 * m)) s) ∨
    scanUp stop scanFuel c s = .raised { s with faulted := some (.addrWrap (2 ^ 32) 16) } := by
  by_cases h : ∃ m, c.toNat + 16 * m + 16 ≤ 2 ^ 32 ∧ stop (placeAt s c m) = true
  · classical
    obtain ⟨hm, hstop⟩ := Nat.find_spec h
    have hskip : ∀ k < Nat.find h, stop (placeAt s c k) = false := fun k hk => by
      simpa using not_and.mp (Nat.find_min h hk) (by omega)
    exact .inl ⟨_, ⟨hm, hskip, hstop⟩, scanUp_of_stops _ (by rw [scanFuel]; omega) hm hskip hstop⟩
  · refine .inr (scanUp_past_top hc (by rw [scanFuel]; omega) fun k hk => ?_)
    simpa using not_and.mp (not_exists.mp h k) hk

end ScanUp

/-! ### The locate scan -/

theorem locate_of_stops {s : State} {m : Nat} (h : locateStops s m) :
    locate scanFuel s.txCur s = .go (s.txCur + BitVec.ofNat 32 (16 * m)) s := by
  obtain ⟨hm, hskip, hstop⟩ := h
  rw [locate_eq_scanUp]
  exact scanUp_of_stops m (by rw [scanFuel]; omega) hm (fun k hk => (locateStop_eq_false s _).mpr (hskip k hk))
    ((locateStop_eq_true s _).mpr hstop)

theorem locate_past_top {s : State} (hc : s.txCur.toNat % 16 = 0)
    (hskip : ∀ k, s.txCur.toNat + 16 * k + 16 ≤ 2 ^ 32 → locateSkips s (placeAt s s.txCur k)) :
    locate scanFuel s.txCur s = .raised { s with faulted := some (.addrWrap (2 ^ 32) 16) } := by
  rw [locate_eq_scanUp]
  exact scanUp_past_top hc (by rw [scanFuel]; omega) fun k hk => (locateStop_eq_false s _).mpr (hskip k hk)

/-- From an aligned cursor the locate scan stops or raises at the top; it ends. -/
theorem locate_cases {s : State} (hc : s.txCur.toNat % 16 = 0) :
    (∃ m, locateStops s m ∧ locate scanFuel s.txCur s = .go (s.txCur + BitVec.ofNat 32 (16 * m)) s) ∨
    locate scanFuel s.txCur s = .raised { s with faulted := some (.addrWrap (2 ^ 32) 16) } := by
  rw [locate_eq_scanUp]
  refine (scanUp_cases hc).imp_left ?_
  rintro ⟨m, ⟨hm, hskip, hstop⟩, h⟩
  exact ⟨m, ⟨hm, fun k hk => (locateStop_eq_false s _).mp (hskip k hk), (locateStop_eq_true s _).mp hstop⟩, h⟩

/-! ### The enable scan -/

theorem enableScan_of_stops {s : State} {n : Nat} (h : scanStops s s.rxCur n) :
    enableScan s = .go () { s with rxEnabled := owned (placeAt s s.rxCur n) } := by
  obtain ⟨hn, hskip, hstop⟩ := h
  rw [enableScan, scanFree_eq_scanUp, scanUp_of_stops n (by rw [scanFuel]; omega) hn
    (fun k hk => (freeStop_eq_false s _).mpr (hskip k hk)) ((freeStop_eq_true s _).mpr hstop)]
  rfl

theorem enableScan_past_top {s : State} (hc : s.rxCur.toNat % 16 = 0)
    (hskip : ∀ k, s.rxCur.toNat + 16 * k + 16 ≤ 2 ^ 32 →
      owned (placeAt s s.rxCur k) = false ∧ endOfRing s (placeAt s s.rxCur k) = false) :
    enableScan s = .raised { s with faulted := some (.addrWrap (2 ^ 32) 16) } := by
  rw [enableScan, scanFree_eq_scanUp, scanUp_past_top hc (by rw [scanFuel]; omega)
    fun k hk => (freeStop_eq_false s _).mpr (hskip k hk)]
  rfl

/-- From an aligned cursor the enable scan ends. -/
theorem enableScan_ends {s : State} (hc : s.rxCur.toNat % 16 = 0) : enableScan s ≠ .endless := by
  rw [enableScan, scanFree_eq_scanUp]
  obtain ⟨m, -, h⟩ | h := scanUp_cases (stop := freeStop s) (s := s) hc <;> rw [h] <;> simp

end Sys2Proof.Machine

namespace Sys2Proof.Claims

open Sys2Proof.Machine

/-- Settles O16: RXDMA_EN goes from 0 to 1, so the scan runs, and it raises past the top. -/
theorem enableScanPastTheTopRaisesAddrWrap : Obligations.EnableScanPastTheTopRaisesAddrWrap := by
  unfold Obligations.EnableScanPastTheTopRaisesAddrWrap
  intro s v hf hrst hon hoff hc hskip
  have hscan : maccrEnable s.maccr v { s with maccr := v } = enableScan { s with maccr := v } := by
    simp only [maccrEnable, rxdmaEn, hon, hoff, if_true, Bool.false_eq_true, if_false]
  rw [exec_running hf, opBody, swRst, hrst, if_neg Bool.false_ne_true, hscan,
    enableScan_past_top (s := { s with maccr := v }) hc hskip]
  rfl

end Sys2Proof.Claims

/-! PROOFS. The kick (R116 to R124) in terms of `Walk`: what one pass of its loop does, where a run of passes stands,
the bytes it changes, and that it ends (R125). -/

namespace Sys2Proof.Machine

open Sys2Proof.Claims

/-! ### Steps 3 and 4 of the walk -/

/-- The state after a copy: a truncation is logged (R119). -/
theorem diag_if_eq (p : Prop) [Decidable p] (c : Diag) (s : State) :
    (if p then diag c s else s) = { s with diagTrace := s.diagTrace ++ (if p then [c] else []) } := by
  split
  · rfl
  · rw [List.append_nil]

theorem txCopyLen_eq (s : State) (acc : List Byte) (d : Desc) :
    txCopyLen s acc d =
      if frameLimit s < acc.length + sizeField d then frameLimit s - acc.length else sizeField d := by
  rw [txCopyLen, maxFrame_eq_frameLimit, txSize_eq_sizeField]

theorem txCopy_go {s : State} {acc : List Byte} {d : Desc} {n : Nat} (hn : txCopyLen s acc d = n)
    (h : n = 0 ∨ d.w3.toNat + n ≤ 2 ^ 32) :
    txCopy acc d s = .go (acc ++ busReadBytes s d.w3.toNat n)
      { s with
        diagTrace := s.diagTrace ++ (if frameLimit s < acc.length + sizeField d then [.txTooBig] else []) } := by
  rw [txCopy, hn, diag_if_eq, maxFrame_eq_frameLimit, txSize_eq_sizeField, Desc.buffer, memRead_go h, Flow.bind_go]
  exact congrArg (fun bs => Flow.go (acc ++ bs) _) (busReadBytes_congr (by rfl) (by rfl) _ _)

theorem txCopy_past {s : State} {acc : List Byte} {d : Desc} {n : Nat} (hn : txCopyLen s acc d = n) (h0 : 0 < n)
    (h : 2 ^ 32 < d.w3.toNat + n) :
    txCopy acc d s = .raised
      { s with
        diagTrace := s.diagTrace ++ (if frameLimit s < acc.length + sizeField d then [.txTooBig] else [])
        faulted := some (.addrWrap d.w3.toNat n) } := by
  rw [txCopy, hn, diag_if_eq, maxFrame_eq_frameLimit, txSize_eq_sizeField, Desc.buffer, memRead_past h0 h]
  rfl

/-- Step 4's interrupt is the requested cause (R121). -/
theorem txCause_eq (d : Desc) (s : State) : txCause d s = { s with isr := s.isr ||| requestedCause d } := by
  have h2 : d.tx2fic = d.w1.getLsbD 30 := rfl
  have h1 : d.txic = d.w1.getLsbD 31 := rfl
  rw [txCause, requestedCause, h2, h1]
  split
  · rfl
  · split
    · rfl
    · rw [BitVec.or_zero]

theorem txSend_eq (acc : List Byte) (d : Desc) (s : State) :
    txSend acc d s = .go (if d.w0.getLsbD 28 then [] else acc)
      { s with
        txOut := s.txOut ++ (if d.w0.getLsbD 28 then [acc] else [])
        isr := s.isr ||| (if d.w0.getLsbD 28 then requestedCause d else 0#32) } := by
  have hl : d.lts = d.w0.getLsbD 28 := rfl
  rw [txSend, hl, txCause_eq]
  split
  · rfl
  · rw [List.append_nil, BitVec.or_zero]

/-! ### The bytes that hold an ownership bit -/

/-- The bytes of memory that hold the ownership bit of an aligned descriptor which has it set (R73, R76). -/
def ownBytes (s : State) : Finset Nat :=
  (Finset.range addrSpace).filter fun x => x % 16 = 3 ∧ (busRead s x).getLsbD 7 = true

theorem card_ownBytes_lt_walkFuel (s : State) : (ownBytes s).card < walkFuel :=
  calc (ownBytes s).card ≤ (Finset.range addrSpace).card := Finset.card_filter_le ..
    _ = addrSpace := Finset.card_range addrSpace
    _ < walkFuel := by decide

/-- Clearing one ownership bit and leaving the others lowers their number: the ground of R125 and R146. -/
theorem card_ownBytes_lt {s t : State} {c : Word} (hc : baseLow c = 0) (hset : owned (descAt s c) = true)
    (hclear : owned (descAt t c) = false) (hrest : ∀ x, x % 16 = 3 → x ≠ c.toNat + 3 → busRead t x = busRead s x) :
    (ownBytes t).card < (ownBytes s).card := by
  have hfit := aligned_fits hc
  rw [baseLow_eq_zero_iff] at hc
  rw [owned_descAt] at hset hclear
  have hsub : ownBytes t ⊆ ownBytes s := fun x hx => by
    rw [ownBytes, Finset.mem_filter] at hx ⊢
    obtain ⟨hr, hx, hbit⟩ := hx
    by_cases hcx : x = c.toNat + 3
    · rw [hcx, hclear] at hbit
      cases hbit
    · exact ⟨hr, hx, hrest x hx hcx ▸ hbit⟩
  refine Finset.card_lt_card ((Finset.ssubset_iff_of_subset hsub).mpr ⟨c.toNat + 3, ?_, ?_⟩)
  · rw [ownBytes, Finset.mem_filter, Finset.mem_range, addrSpace]
    exact ⟨by omega, by omega, hset⟩
  · rw [ownBytes, Finset.mem_filter, hclear]
    simp

/-- Under the default BUS an ownership bit that reads as set lies in memory (R40). -/
theorem hasMemory_of_owned {s : State} {c : Word} (hz : s.cfg.bus.fill = .zero) (h : owned (descAt s c) = true) :
    hasMemory s.cfg.bus (c.toNat + 3) = true := by
  by_contra hm
  rw [owned_descAt, busRead_hole (by simpa using hm), hz] at h
  simp [fillByte] at h

end Sys2Proof.Machine

namespace Sys2Proof.Claims

open Sys2Proof.Machine

/-! ### One pass of the loop -/

/-- The loop of a kick from where it stands (R116). -/
def Walk.loop (w : Walk) (fuel : Nat) : Flow Word := txLoop fuel w.acc w.cur w.st

theorem Walk.copyLen (w : Walk) : txCopyLen w.st w.acc w.desc = w.takes := txCopyLen_eq ..

/-- A visit up to the move of the cursor (R119 to R122). -/
theorem Walk.txVisit_eq {w : Walk} (h : w.copies) :
    txVisit w.acc w.cur w.desc w.st =
      (advance w.cur (released w.desc) w.st.txBase w.handedBack).bind fun c s => .go (w.visited.acc, c) s := by
  obtain ⟨hfit, -, hbuf⟩ := h
  rw [txVisit, txCopy_go w.copyLen hbuf, Flow.bind_go, txSend_eq, Flow.bind_go, writeDesc_go _ hfit, Flow.bind_go]
  rfl

section Pass

variable {w : Walk} (fuel : Nat)

/-- The loop stops at a descriptor that is not owned (R118). -/
theorem Walk.loop_unowned (hfit : w.cur.toNat + 16 ≤ 2 ^ 32) (ho : owned w.desc = false) :
    w.loop (fuel + 1) = .go w.cur { w.st with isr := w.st.isr ||| 0x40#32 } := by
  have ho : (descAt w.st w.cur).own = false := ho
  rw [Walk.loop, txLoop, readDesc_go hfit, Flow.bind_go, ho, if_neg Bool.false_ne_true]
  rfl

theorem Walk.loop_owned (hfit : w.cur.toNat + 16 ≤ 2 ^ 32) (ho : owned w.desc = true) :
    w.loop (fuel + 1) =
      (txVisit w.acc w.cur w.desc w.st).bind fun next s => txLoop fuel next.1 next.2 s := by
  have ho : (descAt w.st w.cur).own = true := ho
  rw [Walk.loop, txLoop, readDesc_go hfit, Flow.bind_go, ho, if_pos rfl]
  rfl

/-- A buffer that passes the top (R48). -/
theorem Walk.loop_bufferPast (hfit : w.cur.toNat + 16 ≤ 2 ^ 32) (ho : owned w.desc = true) (h0 : 0 < w.takes)
    (hbuf : 2 ^ 32 < w.desc.w3.toNat + w.takes) :
    w.loop (fuel + 1) = .raised { w.copied with faulted := some (.addrWrap w.desc.w3.toNat w.takes) } := by
  rw [Walk.loop_owned fuel hfit ho, txVisit, txCopy_past w.copyLen h0 hbuf]
  rfl

/-- A cursor step that passes the top (R48). -/
theorem Walk.loop_stepPast (h : w.copies) (he : endOfRing w.st w.desc = false) (hlast : w.cur.toNat + 16 = 2 ^ 32) :
    w.loop (fuel + 1) = .raised { w.handedBack with faulted := some (.addrWrap (2 ^ 32) 16) } := by
  have ⟨hfit, ho, _⟩ := h
  rw [Walk.loop_owned fuel hfit ho, w.txVisit_eq h, advance_past (by rw [endOfRing_released]; exact he) hlast.ge,
    hlast]
  rfl

/-- A visit, and the loop from the next place (R123). -/
theorem Walk.loop_visited (h : w.copies) (ha : endOfRing w.st w.desc = true ∨ w.cur.toNat + 16 < 2 ^ 32) :
    w.loop (fuel + 1) = w.visited.loop fuel := by
  have ⟨hfit, ho, _⟩ := h
  rw [Walk.loop_owned fuel hfit ho, w.txVisit_eq h, advance_go (by rw [endOfRing_released]; exact ha),
    nextPlace, endOfRing_released]
  rfl

/-- What one pass can do where the cursor is aligned. -/
theorem Walk.loop_cases (hc : baseLow w.cur = 0) :
    (owned w.desc = false ∧ w.loop (fuel + 1) = .go w.cur { w.st with isr := w.st.isr ||| 0x40#32 }) ∨
    (∃ k, w.loop (fuel + 1) = .raised { w.copied with faulted := some k }) ∨
    (w.copies ∧ ∃ k, w.loop (fuel + 1) = .raised { w.handedBack with faulted := some k }) ∨
    (w.copies ∧ w.loop (fuel + 1) = w.visited.loop fuel) := by
  have hfit := aligned_fits hc
  cases ho : owned w.desc with
  | false => exact .inl ⟨rfl, w.loop_unowned fuel hfit ho⟩
  | true =>
    by_cases hbuf : w.takes = 0 ∨ w.desc.w3.toNat + w.takes ≤ 2 ^ 32
    · have hcopy : w.copies := ⟨hfit, ho, hbuf⟩
      by_cases ha : endOfRing w.st w.desc = true ∨ w.cur.toNat + 16 < 2 ^ 32
      · exact .inr (.inr (.inr ⟨hcopy, w.loop_visited fuel hcopy ha⟩))
      · rw [not_or, Bool.not_eq_true] at ha
        exact .inr (.inr (.inl ⟨hcopy, _, w.loop_stepPast fuel hcopy ha.1 (by omega)⟩))
    · exact .inr (.inl ⟨_, w.loop_bufferPast fuel hfit ho (by omega) (by omega)⟩)

end Pass

/-! ### A run of passes -/

@[simp] theorem walked_cfg (s : State) (m n : Nat) : (walked s m n).st.cfg = s.cfg := by
  induction n with
  | zero => rfl
  | succ n ih => exact ih

theorem walked_dma {s : State} (h : s.DmaInv) (m n : Nat) :
    (walked s m n).st.DmaInv ∧ baseLow (walked s m n).cur = 0 := by
  induction n with
  | zero =>
    refine ⟨h, ?_⟩
    have hc := h.txCurAligned
    rw [baseLow_eq_zero_iff] at hc ⊢
    simp only [walked, BitVec.toNat_add, BitVec.toNat_ofNat]
    omega
  | succ n ih => exact ⟨ih.1.write _ _, nextPlace_aligned ih.2 ih.1.txBaseAligned⟩

/-- After `n` visits the loop goes on from where they left it. -/
theorem walked_loop {s : State} {m n : Nat} (h : ∀ k < n, (walked s m k).movesOn) (fuel : Nat) :
    (walked s m 0).loop (n + fuel) = (walked s m n).loop fuel := by
  induction n generalizing fuel with
  | zero => rw [Nat.zero_add]
  | succ n ih =>
    obtain ⟨hcopy, hadv, -⟩ := h n n.lt_succ_self
    rw [Nat.add_assoc, Nat.add_comm 1, ih (fun k hk => h k (by omega)), Walk.loop_visited fuel hcopy hadv]
    rfl

theorem txKick_of_stops {s : State} {m : Nat} (h : locateStops s m) :
    txKick s = ((walked s m 0).loop walkFuel).bind fun cur s => .go () { s with txCur := cur } := by
  rw [txKick, locate_of_stops h]
  rfl

/-- A kick is its loop, where TXDMA_EN is set (R94, R116). -/
theorem exec_kick {s : State} (v : Word) (hf : s.faulted = none) (he : s.maccr.getLsbD 0 = true) :
    exec (.wrNptxpd v) s = finish ((txKick s).bind fun _ s => .go .nothing s) := by
  rw [exec_running hf, opBody, txdmaEn, he, if_pos rfl]

/-- A kick whose loop raises in the pass after `n` visits stops there. -/
theorem exec_kick_raised {s u : State} {m n : Nat} {k : FaultKind} (v : Word) (hf : s.faulted = none)
    (he : s.maccr.getLsbD 0 = true) (hn : n < 2 ^ 32) (hm : locateStops s m) (hw : ∀ k < n, (walked s m k).movesOn)
    (h : ∀ fuel, (walked s m n).loop (fuel + 1) = .raised { u with faulted := some k }) :
    exec (.wrNptxpd v) s = .next (stopped k u) := by
  have hfuel : walkFuel = n + ((2 ^ 32 - n) + 1) := by
    rw [walkFuel]
    omega
  rw [exec_kick v hf he, txKick_of_stops hm, hfuel, walked_loop hw, h]
  rfl

/-! ### The bytes a visit changes -/

/-- A visit changes no byte but the one that holds the descriptor's ownership bit (R122, R127). -/
theorem Walk.busRead_visited_other {w : Walk} (hw : Memory.wf w.st.mem = true) {x : Nat} (hx : x ≠ w.cur.toNat + 3) :
    busRead w.visited.st x = busRead w.st x := by
  have hm : w.visited.st.mem = busWriteBytes w.st.cfg.bus w.st.mem w.cur.toNat (bytesOfDesc (released w.desc)) := rfl
  by_cases hin : w.cur.toNat ≤ x ∧ x < w.cur.toNat + 16
  · obtain ⟨i, rfl⟩ := Nat.exists_eq_add_of_le hin.1
    have h3 : 3 ≠ i := by omega
    refine busRead_written_same (t := w.visited.st) hw rfl hm rfl ?_
    rw [bytesOfDesc_released, List.getElem?_modify_ne _ _ h3, Walk.desc, bytesOfDesc_descAt]
    exact busReadBytes_getElem? _ _ _ _ (by omega)
  · exact busRead_written_outside (t := w.visited.st) hw rfl hm (by rw [bytesOfDesc_length]; omega)

/-- Of that byte it clears bit 7, where there is memory (R122). -/
theorem Walk.busRead_visited_own {w : Walk} (hw : Memory.wf w.st.mem = true)
    (hm : hasMemory w.st.cfg.bus (w.cur.toNat + 3) = true) :
    busRead w.visited.st (w.cur.toNat + 3) = busRead w.st (w.cur.toNat + 3) &&& 0x7F#8 := by
  have hbytes : (bytesOfDesc (released w.desc))[3]? = some (busRead w.st (w.cur.toNat + 3) &&& 0x7F#8) := by
    rw [bytesOfDesc_released, List.getElem?_modify_eq, Walk.desc, bytesOfDesc_descAt,
      busReadBytes_getElem? _ _ _ _ (by decide)]
    rfl
  obtain ⟨hlt, hb⟩ := List.getElem?_eq_some_iff.mp hbytes
  rw [← hb]
  exact busRead_written_inside (t := w.visited.st) hw rfl rfl hlt hm

/-- A byte after a visit: as before, or the one with the ownership bit, that bit cleared. -/
theorem Walk.busRead_visited {w : Walk} (hw : Memory.wf w.st.mem = true) (x : Nat) :
    busRead w.visited.st x = busRead w.st x ∨
      (x = w.cur.toNat + 3 ∧ busRead w.visited.st x = busRead w.st x &&& 0x7F#8) := by
  by_cases hx : x = w.cur.toNat + 3
  · subst hx
    cases hm : hasMemory w.st.cfg.bus (w.cur.toNat + 3) with
    | true => exact .inr ⟨rfl, w.busRead_visited_own hw hm⟩
    | false => exact .inl ((busRead_hole (s := w.visited.st) hm).trans (busRead_hole hm).symm)
  · exact .inl (w.busRead_visited_other hw hx)

/-- Under the default BUS a visit leaves one ownership bit fewer (R125). -/
theorem Walk.card_ownBytes_visited {w : Walk} (hz : w.st.cfg.bus.fill = .zero) (hw : Memory.wf w.st.mem = true)
    (hc : baseLow w.cur = 0) (ho : owned w.desc = true) : (ownBytes w.visited.st).card < (ownBytes w.st).card := by
  refine card_ownBytes_lt hc ho ?_ fun x _ hx => w.busRead_visited_other hw hx
  rw [owned_descAt, w.busRead_visited_own hw (hasMemory_of_owned hz ho)]
  simp

/-! ### Every run of the loop -/

/-- The bytes after `n` visits of owned descriptors: ownership bits of those descriptors are cleared, nothing else. -/
theorem busRead_walked {s : State} (h : s.DmaInv) (m n x : Nat) :
    busRead (walked s m n).st x = busRead s x ∨
      ∃ k < n, x = (walked s m k).cur.toNat + 3 ∧ x % 16 = 3 ∧
        busRead (walked s m n).st x = busRead s x &&& 0x7F#8 := by
  induction n with
  | zero => exact .inl rfl
  | succ n ih =>
    obtain ⟨hd, hc⟩ := walked_dma h m n
    rw [baseLow_eq_zero_iff] at hc
    rcases (walked s m n).busRead_visited hd.memCanonical x with hsame | ⟨hx, hclr⟩
    · rw [walked, hsame]
      exact ih.imp_right fun ⟨k, hk, hrest⟩ => ⟨k, by omega, hrest⟩
    · refine .inr ⟨n, n.lt_succ_self, hx, by omega, ?_⟩
      rw [walked, hclr]
      rcases ih with ih | ⟨k, -, -, -, ih⟩ <;> rw [ih]
      rw [BitVec.and_assoc, BitVec.and_self]

/-- Under the default BUS the loop ends: it makes fewer visits than there are ownership bits set (R125). -/
theorem walked_loop_ends {s : State} (h : s.DmaInv) (hz : s.cfg.bus.fill = .zero) (m n : Nat) {fuel : Nat}
    (hf : (ownBytes (walked s m n).st).card < fuel) : (walked s m n).loop fuel ≠ .endless := by
  induction fuel generalizing n with
  | zero => omega
  | succ fuel ih =>
    obtain ⟨hd, hc⟩ := walked_dma h m n
    rcases Walk.loop_cases fuel hc with ⟨-, hl⟩ | ⟨k, hl⟩ | ⟨-, k, hl⟩ | ⟨⟨-, ho, -⟩, hl⟩ <;> rw [hl]
    · simp
    · simp
    · simp
    · refine ih (n + 1) ?_
      have := Walk.card_ownBytes_visited (by rw [walked_cfg]; exact hz) hd.memCanonical hc ho
      rw [walked]
      omega

/-- The memory of `t` is that after some number of visits of owned descriptors, by a kick at `s`. -/
def KickLeaves (s t : State) : Prop :=
  ∃ m n, (n = 0 ∨ (s.maccr.getLsbD 0 = true ∧ locateStops s m)) ∧ (∀ k < n, (walked s m k).copies) ∧
    t.mem = (walked s m n).st.mem

theorem KickLeaves.same {s t : State} (h : t.mem = s.mem) : KickLeaves s t := ⟨0, 0, .inl rfl, nofun, h⟩

/-- Wherever the loop ends, raising or not, visits alone changed memory (R127). -/
theorem walked_loop_leaves {s : State} {m : Nat} (h : s.DmaInv) (he : s.maccr.getLsbD 0 = true) (hm : locateStops s m)
    (n fuel : Nat) (hn : ∀ k < n, (walked s m k).copies) :
    Flow.Post (fun _ => KickLeaves s) (KickLeaves s) ((walked s m n).loop fuel) := by
  induction fuel generalizing n with
  | zero => trivial
  | succ fuel ih =>
    rcases Walk.loop_cases fuel (walked_dma h m n).2 with ⟨-, hl⟩ | ⟨k, hl⟩ | ⟨hcopy, k, hl⟩ | ⟨hcopy, hl⟩ <;> rw [hl]
    · exact ⟨m, n, .inr ⟨he, hm⟩, hn, rfl⟩
    · exact ⟨m, n, .inr ⟨he, hm⟩, hn, rfl⟩
    · exact ⟨m, n + 1, .inr ⟨he, hm⟩, Nat.forall_lt_succ_right.mpr ⟨hn, hcopy⟩, rfl⟩
    · exact ih (n + 1) (Nat.forall_lt_succ_right.mpr ⟨hn, hcopy⟩)

/-! ### Every kick -/

/-- A kick but for its end: with TXDMA_EN = 0 nothing runs (R94). -/
def kickBody (s : State) : Flow Unit := if txdmaEn s.maccr then txKick s else .go () s

theorem opBody_kick (v : Word) (s : State) :
    opBody (.wrNptxpd v) s = (kickBody s).bind fun _ u => .go .nothing u := by
  unfold opBody kickBody
  dsimp only
  split <;> rfl

/-- Under the default BUS every kick ends (R125). -/
theorem kickBody_ends {s : State} (h : s.DmaInv) (hz : s.cfg.bus.fill = .zero) : kickBody s ≠ .endless := by
  unfold kickBody
  split
  · obtain ⟨m, hm, -⟩ | hl := locate_cases ((baseLow_eq_zero_iff _).mp h.txCurAligned)
    · rw [txKick_of_stops hm, ne_eq, Flow.bind_eq_endless, not_or]
      exact ⟨walked_loop_ends h hz m 0 (card_ownBytes_lt_walkFuel _), by simp⟩
    · rw [txKick, hl]
      exact nofun
  · exact nofun

/-- What a kick leaves in memory, where it raises nothing and where it raises (R122, R127). -/
theorem kickBody_leaves {s : State} (h : s.DmaInv) :
    Flow.Post (fun _ => KickLeaves s) (KickLeaves s) (kickBody s) := by
  unfold kickBody
  split
  · rename_i he
    obtain ⟨m, hm, -⟩ | hl := locate_cases ((baseLow_eq_zero_iff _).mp h.txCurAligned)
    · rw [txKick_of_stops hm]
      exact Flow.post_bind (walked_loop_leaves h he hm 0 walkFuel nofun) fun _ _ ht => ht
    · rw [txKick, hl]
      exact .same rfl
  · exact .same rfl

theorem kick_leaves {s t : State} {v : Word} (hd : s.DmaInv) (h : exec (.wrNptxpd v) s = .next t) : KickLeaves s t := by
  obtain ⟨u, hu, rfl⟩ | ⟨u, hu, rfl⟩ := exec_silent_post (opBody_kick v s) (kickBody_leaves hd) h
  · exact hu
  · exact hu

/-- A kick that answers a next state changed what a part of a kick can change, and txCur (R127). -/
theorem kick_frame {s t : State} {v : Word} (h : exec (.wrNptxpd v) s = .next t) :
    t = { s with
          isr := t.isr, txCur := t.txCur, txOut := t.txOut, irqLevel := t.irqLevel, irqChanges := t.irqChanges
          diagTrace := t.diagTrace, mem := t.mem, faulted := t.faulted, response := .nothing } := by
  have hp : Flow.Post (fun _ t => ∃ u cur, TxStep s u ∧ t = { u with txCur := cur }) (TxRaised s) (kickBody s) := by
    unfold kickBody
    split
    · exact txKick_post s
    · exact ⟨s, s.txCur, .refl s, rfl⟩
  obtain ⟨_, ⟨_, cur, ⟨m, o, x, dg, -, rfl⟩, rfl⟩, rfl⟩ | ⟨_, ⟨_, k, ⟨m, o, x, dg, -, rfl⟩, rfl⟩, rfl⟩ :=
    exec_silent_post (opBody_kick v s) hp h
  · rfl
  · rfl

/-- Settles O35: the pass after `n` visits raises at its copy. -/
theorem kickBufferPastTheTopRaisesAddrWrap : Obligations.KickBufferPastTheTopRaisesAddrWrap := by
  unfold Obligations.KickBufferPastTheTopRaisesAddrWrap
  rintro s v m n w hf he hn hm hw rfl hfit ho h0 hbuf
  exact exec_kick_raised v hf he hn hm hw fun fuel => Walk.loop_bufferPast fuel hfit ho h0 hbuf

/-- Settles O58: the locate scan raises, or the pass after `n` visits raises at its cursor step. -/
theorem kickStepPastTheTopRaisesAddrWrap : Obligations.KickStepPastTheTopRaisesAddrWrap := by
  unfold Obligations.KickStepPastTheTopRaisesAddrWrap
  intro s v hf he
  constructor
  · intro hc hskip
    rw [exec_kick v hf he, txKick, locate_past_top hc hskip]
    rfl
  · rintro m n w hn hm hw rfl hcopy hlast heor
    refine exec_kick_raised v hf he hn hm hw fun fuel => Walk.loop_stepPast fuel hcopy ?_ hlast
    rw [endOfRing_congr (walked_cfg s m n), heor]

/-- Settles O37: the loop ends by the ownership bits cleared, and the frame is that of the parts of a kick. -/
theorem everyKickEnds : Obligations.EveryKickEnds := by
  unfold Obligations.EveryKickEnds
  intro s v hi hf hz
  have hd := ((State.inv_iff s).mp hi).1
  obtain ⟨t, ht⟩ := exec_silent_ends (opBody_kick v s) hf (kickBody_ends hd hz)
  exact ⟨t, ht, kick_frame ht⟩

/-- Settles O38: the memory is that of the visits, and each visit clears an ownership bit and changes nothing else. -/
theorem kickChangesOnlyOwnershipBits : Obligations.KickChangesOnlyOwnershipBits := by
  unfold Obligations.KickChangesOnlyOwnershipBits
  intro s t v hi ht
  have hd := ((State.inv_iff s).mp hi).1
  have hcfg : t.cfg = s.cfg := by rw [kick_frame ht]
  obtain ⟨m, n, hstop, hn, hm⟩ := kick_leaves hd ht
  refine ⟨m, n, hstop, hn, hm, fun a => ?_⟩
  rw [busRead_congr (hcfg.trans (walked_cfg s m n).symm) hm]
  exact busRead_walked hd m n a

end Sys2Proof.Claims

/-! PROOFS. A delivery (R135 to R145) in terms of `delivered`: what one pass of its loop does, the bytes it changes, and
that it ends (R146). -/

namespace Sys2Proof.Claims

open Sys2Proof.Machine

/-! ### What a delivery keeps -/

@[simp] theorem delivered_cfg (s : State) (f : List Byte) (n : Nat) : (delivered s f n).cfg = s.cfg := by
  induction n with
  | zero => rfl
  | succ n ih => exact ih

@[simp] theorem delivered_rbsr (s : State) (f : List Byte) (n : Nat) : (delivered s f n).rbsr = s.rbsr := by
  induction n with
  | zero => rfl
  | succ n ih => exact ih

theorem loopEnd_cfg (s : State) (f : List Byte) (n : Nat) : (loopEnd s f n).cfg = s.cfg := by
  unfold loopEnd
  split <;> exact delivered_cfg s f n

theorem loopEnd_mem (s : State) (f : List Byte) (n : Nat) : (loopEnd s f n).mem = (delivered s f n).mem := by
  unfold loopEnd
  split <;> rfl

theorem loopEnd_rxCur (s : State) (f : List Byte) (n : Nat) : (loopEnd s f n).rxCur = (delivered s f n).rxCur := by
  unfold loopEnd
  split <;> rfl

theorem delivered_dma {s : State} (h : s.DmaInv) (f : List Byte) (n : Nat) : (delivered s f n).DmaInv := by
  induction n with
  | zero => exact h
  | succ n ih =>
    exact { (ih.write _ _).write _ _ with rxCurAligned := nextPlace_aligned ih.rxCurAligned ih.rxBaseAligned }

theorem endOfRing_delivered (s : State) (f : List Byte) (n : Nat) (d : Desc) :
    endOfRing (delivered s f n) d = endOfRing s d :=
  endOfRing_congr (delivered_cfg s f n) d

/-! ### The stream -/

/-- What is left of the stream after `k` descriptors (R138). -/
def restOf (s : State) (f : List Byte) (k : Nat) : List Byte := (rxStream s f).drop (k * s.rbsr.toNat)

theorem restOf_isEmpty (s : State) (f : List Byte) (k : Nat) :
    (restOf s f k).isEmpty = decide ¬ bytesLeft s f k := by
  rw [Bool.eq_iff_iff, List.isEmpty_iff, decide_eq_true_eq, restOf, List.drop_eq_nil_iff, not_lt]

theorem chunk_eq (s : State) (f : List Byte) (k : Nat) : chunk s f k = (restOf s f k).take s.rbsr.toNat := rfl

theorem chunk_length (s : State) (f : List Byte) (k : Nat) :
    (chunk s f k).length = min (restOf s f k).length s.rbsr.toNat := by
  rw [chunk_eq, List.length_take, Nat.min_comm]

theorem chunk_length_lt (s : State) (f : List Byte) (k : Nat) : (chunk s f k).length < 2 ^ 14 := by
  rw [chunk_length]
  exact (Nat.min_le_right ..).trans_lt s.rbsr.isLt

/-- The bytes one descriptor gets (R139). -/
theorem restOf_take (s : State) (f : List Byte) (k : Nat) : (restOf s f k).take (chunk s f k).length = chunk s f k := by
  rw [chunk_length, chunk_eq, List.take_eq_take_iff]
  omega

/-- What it leaves (R139). -/
theorem restOf_drop (s : State) (f : List Byte) (k : Nat) :
    (restOf s f k).drop (chunk s f k).length = restOf s f (k + 1) := by
  have hnext : restOf s f (k + 1) = (restOf s f k).drop s.rbsr.toNat := by
    rw [restOf, restOf, List.drop_drop, Nat.succ_mul]
  rw [hnext, chunk_length]
  rcases Nat.le_total s.rbsr.toNat (restOf s f k).length with h | h
  · rw [Nat.min_eq_right h]
  · rw [Nat.min_eq_left h, List.drop_length, List.drop_eq_nil_of_le h]

end Sys2Proof.Claims

namespace Sys2Proof.Machine

open Sys2Proof.Claims

/-! ### One visit -/

section Visit

variable {s : State} (first bc ftl : Bool) {rest : List Byte} {d : Desc}

/-- A visit of a free descriptor up to the move of the cursor (R139 to R142). -/
theorem rxVisit_eq {n : Nat} (hn : rxChunk s rest = n) (hfit : s.rxCur.toNat + 16 ≤ 2 ^ 32)
    (hbuf : rest.take n = [] ∨ d.w3.toNat + (rest.take n).length ≤ 2 ^ 32) :
    rxVisit first bc ftl rest d s =
      (advance s.rxCur (stamped d n first (rest.drop n).isEmpty bc ftl) s.rxBase
        { s with
          mem := withDesc s (busWriteBytes s.cfg.bus s.mem d.w3.toNat (rest.take n)) s.rxCur
            (stamped d n first (rest.drop n).isEmpty bc ftl)
          isr := s.isr ||| (if (rest.drop n).isEmpty then 0x1#32 else 0x2#32) }).bind
        fun c t => .go (rest.drop n) { t with rxCur := c } := by
  unfold rxVisit
  dsimp only
  rw [hn, Desc.buffer, memWrite_go hbuf, Flow.bind_go, writeDesc_go _ hfit, Flow.bind_go]
  cases (rest.drop n).isEmpty <;> rfl

/-- A buffer that passes the top (R48). -/
theorem rxVisit_past {n : Nat} (hn : rxChunk s rest = n) (hne : rest.take n ≠ [])
    (hbuf : 2 ^ 32 < d.w3.toNat + (rest.take n).length) :
    rxVisit first bc ftl rest d s =
      .raised { s with faulted := some (.addrWrap d.w3.toNat (rest.take n).length) } := by
  unfold rxVisit
  dsimp only
  rw [hn, Desc.buffer, memWrite_past hne hbuf, Flow.bind_raised]

end Visit

/-- The ownership bit of a descriptor written to memory is its own (R46). -/
theorem owned_written {s t : State} {a : Word} {d : Desc} (hw : Memory.wf s.mem = true) (hc : t.cfg = s.cfg)
    (ht : t.mem = withDesc s s.mem a d) (hm : hasMemory s.cfg.bus (a.toNat + 3) = true) :
    owned (descAt t a) = owned d := by
  obtain ⟨hlt, hb⟩ := List.getElem?_eq_some_iff.mp (bytesOfDesc_getElem? d (i := 0) (j := 3) (by decide) (by decide))
  rw [owned_descAt, busRead_written_inside hw hc ht hlt hm, hb]
  simp [byteOf, owned, wordsOf]

end Sys2Proof.Machine

namespace Sys2Proof.Claims

open Sys2Proof.Machine

section Pass

variable {s : State} {f : List Byte} {k : Nat}

/-- The `k`-th descriptor as a delivery of `f` at `s` writes it back (R141). -/
def backDesc (s : State) (f : List Byte) (k : Nat) : Desc :=
  stamped (metDesc s f k) (chunk s f k).length (decide (k = 0)) (decide ¬ bytesLeft s f (k + 1)) (isBroadcast f)
    (rxTooLong s f)

/-- The state before the cursor moves from the `k`-th descriptor: it is filled, its cause set (R140 to R142). -/
def writtenBack (s : State) (f : List Byte) (k : Nat) : State :=
  { filled s f k (delivered s f k) with rxCur := (delivered s f k).rxCur }

/-- The loop of a delivery of `f` at `s` after `k` descriptors (R138). -/
def deliverLoop (s : State) (f : List Byte) (fuel k : Nat) : Flow Unit :=
  rxLoop (isBroadcast f) (rxTooLong s f) fuel (decide (k = 0)) (restOf s f k) (delivered s f k)

/-- The visit of the `k`-th descriptor of a delivery of `f` at `s` (R139 to R144). -/
def deliverVisit (s : State) (f : List Byte) (k : Nat) : Flow (List Byte) :=
  rxVisit (decide (k = 0)) (isBroadcast f) (rxTooLong s f) (restOf s f k) (metDesc s f k) (delivered s f k)

theorem endOfRing_backDesc (s : State) (f : List Byte) (k : Nat) :
    endOfRing s (backDesc s f k) = endOfRing s (metDesc s f k) :=
  endOfRing_stamped s _ (chunk_length_lt s f k) ..

theorem owned_backDesc (s : State) (f : List Byte) (k : Nat) : owned (backDesc s f k) = false :=
  owned_stamped _ (chunk_length_lt s f k) ..

theorem endOfRing_writtenBack (s : State) (f : List Byte) (k : Nat) (d : Desc) :
    endOfRing (writtenBack s f k) d = endOfRing s d :=
  endOfRing_congr (t := writtenBack s f k) (delivered_cfg s f k) d

theorem rxChunk_restOf (s : State) (f : List Byte) (k : Nat) :
    rxChunk (delivered s f k) (restOf s f k) = (chunk s f k).length := by
  rw [rxChunk, delivered_rbsr, chunk_length]

/-- The visit up to the move of the cursor. -/
theorem deliverVisit_eq (hfit : (delivered s f k).rxCur.toNat + 16 ≤ 2 ^ 32)
    (hbuf : (metDesc s f k).w3.toNat + (chunk s f k).length ≤ 2 ^ 32) :
    deliverVisit s f k =
      (advance (delivered s f k).rxCur (backDesc s f k) (delivered s f k).rxBase (writtenBack s f k)).bind
        fun c t => .go (restOf s f (k + 1)) { t with rxCur := c } := by
  have hcause : (if (decide ¬ bytesLeft s f (k + 1)) = true then 0x1#32 else 0x2#32) =
      if bytesLeft s f (k + 1) then 0x2#32 else 0x1#32 := by
    by_cases h : bytesLeft s f (k + 1) <;> simp [h]
  rw [← restOf_take] at hbuf
  rw [deliverVisit, rxVisit_eq _ _ _ (rxChunk_restOf s f k) hfit (.inr hbuf), restOf_take, restOf_drop, restOf_isEmpty,
    hcause]
  rfl

variable (fuel : Nat)

/-- The loop stops: the stream is stored, or a descriptor is not free (R138, R143). -/
theorem deliverLoop_stops (h : stopsAfter s f k) : deliverLoop s f (fuel + 1) k = .go () (loopEnd s f k) := by
  rw [deliverLoop, rxLoop, restOf_isEmpty, loopEnd]
  by_cases hb : bytesLeft s f k
  · obtain ⟨hfit, ho⟩ := h.resolve_left (not_not.mpr hb)
    have ho : (descAt (delivered s f k) (delivered s f k).rxCur).own = false := ho
    rw [if_pos hb, if_neg (by simpa using hb), readDesc_go hfit, Flow.bind_go, ho, if_neg Bool.false_ne_true]
    rfl
  · rw [if_neg hb, if_pos (by simpa using hb)]

/-- The loop visits a free descriptor (R138). -/
theorem deliverLoop_owned (hb : bytesLeft s f k) (hfit : (delivered s f k).rxCur.toNat + 16 ≤ 2 ^ 32)
    (ho : owned (metDesc s f k) = true) :
    deliverLoop s f (fuel + 1) k =
      (deliverVisit s f k).bind fun left t => rxLoop (isBroadcast f) (rxTooLong s f) fuel false left t := by
  have ho : (descAt (delivered s f k) (delivered s f k).rxCur).own = true := ho
  rw [deliverLoop, rxLoop, restOf_isEmpty, if_neg (by simpa using hb), readDesc_go hfit, Flow.bind_go, ho, if_pos rfl]
  rfl

/-- A buffer that passes the top (R48). -/
theorem deliverLoop_bufferPast (hb : bytesLeft s f k) (hfit : (delivered s f k).rxCur.toNat + 16 ≤ 2 ^ 32)
    (ho : owned (metDesc s f k) = true) (hne : chunk s f k ≠ [])
    (hbuf : 2 ^ 32 < (metDesc s f k).w3.toNat + (chunk s f k).length) :
    deliverLoop s f (fuel + 1) k = .raised
      { delivered s f k with faulted := some (.addrWrap (metDesc s f k).w3.toNat (chunk s f k).length) } := by
  rw [← restOf_take] at hne hbuf
  rw [deliverLoop_owned fuel hb hfit ho, deliverVisit, rxVisit_past _ _ _ (rxChunk_restOf s f k) hne hbuf, restOf_take]
  rfl

/-- A cursor step that passes the top (R48). -/
theorem deliverLoop_stepPast (hb : bytesLeft s f k) (hlast : (delivered s f k).rxCur.toNat + 16 = 2 ^ 32)
    (ho : owned (metDesc s f k) = true) (hbuf : (metDesc s f k).w3.toNat + (chunk s f k).length ≤ 2 ^ 32)
    (he : endOfRing s (metDesc s f k) = false) :
    deliverLoop s f (fuel + 1) k = .raised { writtenBack s f k with faulted := some (.addrWrap (2 ^ 32) 16) } := by
  have he' : endOfRing (writtenBack s f k) (backDesc s f k) = false := by
    rw [endOfRing_writtenBack, endOfRing_backDesc, he]
  rw [deliverLoop_owned fuel hb hlast.le ho, deliverVisit_eq hlast.le hbuf, advance_past he' hlast.ge, hlast]
  rfl

/-- A visit, and the loop from the next place (R144). -/
theorem deliverLoop_filled (hb : bytesLeft s f k) (hfit : (delivered s f k).rxCur.toNat + 16 ≤ 2 ^ 32)
    (ho : owned (metDesc s f k) = true) (hbuf : (metDesc s f k).w3.toNat + (chunk s f k).length ≤ 2 ^ 32)
    (ha : endOfRing s (metDesc s f k) = true ∨ (delivered s f k).rxCur.toNat + 16 < 2 ^ 32) :
    deliverLoop s f (fuel + 1) k = deliverLoop s f fuel (k + 1) := by
  have he : endOfRing (writtenBack s f k) (backDesc s f k) = endOfRing (delivered s f k) (metDesc s f k) := by
    rw [endOfRing_writtenBack, endOfRing_backDesc, endOfRing_delivered]
  rw [deliverLoop_owned fuel hb hfit ho, deliverVisit_eq hfit hbuf,
    advance_go (by rw [he, endOfRing_delivered]; exact ha), nextPlace, he]
  rfl

/-- What one pass can do where the cursor is aligned. -/
theorem deliverLoop_cases (hc : baseLow (delivered s f k).rxCur = 0) :
    (stopsAfter s f k ∧ deliverLoop s f (fuel + 1) k = .go () (loopEnd s f k)) ∨
    ((bytesLeft s f k ∧ owned (metDesc s f k) = true) ∧
      ((∃ kind, deliverLoop s f (fuel + 1) k = .raised { delivered s f k with faulted := some kind }) ∨
       (∃ kind, deliverLoop s f (fuel + 1) k = .raised { writtenBack s f k with faulted := some kind }) ∨
       deliverLoop s f (fuel + 1) k = deliverLoop s f fuel (k + 1))) := by
  have hfit := aligned_fits hc
  by_cases hb : bytesLeft s f k
  · cases ho : owned (metDesc s f k) with
    | false => exact .inl ⟨.inr ⟨hfit, ho⟩, deliverLoop_stops fuel (.inr ⟨hfit, ho⟩)⟩
    | true =>
      refine .inr ⟨⟨hb, rfl⟩, ?_⟩
      by_cases hbuf : (metDesc s f k).w3.toNat + (chunk s f k).length ≤ 2 ^ 32
      · by_cases ha : endOfRing s (metDesc s f k) = true ∨ (delivered s f k).rxCur.toNat + 16 < 2 ^ 32
        · exact .inr (.inr (deliverLoop_filled fuel hb hfit ho hbuf ha))
        · rw [not_or, Bool.not_eq_true] at ha
          exact .inr (.inl ⟨_, deliverLoop_stepPast fuel hb (by omega) ho hbuf ha.1⟩)
      · have hne : chunk s f k ≠ [] := fun h0 => by
          rw [h0, List.length_nil] at hbuf
          omega
        exact .inl ⟨_, deliverLoop_bufferPast fuel hb hfit ho hne (by omega)⟩
  · exact .inl ⟨.inl hb, deliverLoop_stops fuel (.inl hb)⟩

end Pass

/-! ### A run of passes -/

section Run

variable {s : State} {f : List Byte}

/-- After `n` descriptors the loop goes on from where they left it. -/
theorem deliverLoop_delivered {n : Nat} (h : ∀ k < n, fillsAndMovesOn s f k) (fuel : Nat) :
    deliverLoop s f (n + fuel) 0 = deliverLoop s f fuel n := by
  induction n generalizing fuel with
  | zero => rw [Nat.zero_add]
  | succ n ih =>
    obtain ⟨hb, hfit, ho, hbuf, hadv, -⟩ := h n n.lt_succ_self
    rw [Nat.add_assoc, Nat.add_comm 1, ih (fun k hk => h k (by omega)), deliverLoop_filled fuel hb hfit ho hbuf hadv]

/-- An accepted delivery: the loop, then the rescan (R138, R145). -/
theorem rxAccept_eq (s : State) (f : List Byte) :
    rxAccept f s = (deliverLoop s f walkFuel 0).bind fun _ t => enableScan t := by
  have h0 : restOf s f 0 = rxStream s f := by rw [restOf, Nat.zero_mul, List.drop_zero]
  rw [rxAccept, diag_if_eq, deliverLoop, h0]
  rfl

/-- A delivery but for its end: while not enabled it is dropped (R138). -/
def deliverBody (s : State) (f : List Byte) : Flow Unit :=
  if s.rxEnabled then rxAccept f s else .go () (diag .rxNotEnabled s)

theorem opBody_deliver (s : State) (f : List Byte) :
    opBody (.hostDeliver f) s = (deliverBody s f).bind fun _ u => .go .nothing u := by
  unfold opBody deliverBody
  dsimp only
  split <;> rfl

/-- A delivery to an enabled device, from the pass after `n` descriptors on (R138, R145). -/
theorem exec_deliver {n : Nat} (hf : s.faulted = none) (he : s.rxEnabled = true) (hn : n < 2 ^ 32)
    (h : ∀ k < n, fillsAndMovesOn s f k) :
    ∃ fuel, exec (.hostDeliver f) s =
      finish (((deliverLoop s f (fuel + 1) n).bind fun _ t => enableScan t).bind fun _ u => .go .nothing u) := by
  have hfuel : walkFuel = n + ((2 ^ 32 - n) + 1) := by
    rw [walkFuel]
    omega
  refine ⟨2 ^ 32 - n, ?_⟩
  rw [exec_running hf, opBody_deliver, deliverBody, he, if_pos rfl, rxAccept_eq, hfuel, deliverLoop_delivered h]

/-! ### The bytes a visit changes -/

theorem delivered_succ_mem (s : State) (f : List Byte) (k : Nat) :
    (delivered s f (k + 1)).mem = withDesc (delivered s f k)
      (busWriteBytes (delivered s f k).cfg.bus (delivered s f k).mem (metDesc s f k).w3.toNat (chunk s f k))
      (delivered s f k).rxCur (backDesc s f k) := rfl

/-- A visit leaves every byte but word 0 of its descriptor and its buffer's bytes (R140, R141). -/
theorem busRead_delivered_succ (h : s.DmaInv) {k x : Nat}
    (hdesc : x < (delivered s f k).rxCur.toNat ∨ (delivered s f k).rxCur.toNat + 4 ≤ x)
    (hbuf : x < (metDesc s f k).w3.toNat ∨ (metDesc s f k).w3.toNat + (chunk s f k).length ≤ x) :
    busRead (delivered s f (k + 1)) x = busRead (delivered s f k) x := by
  have hw := (delivered_dma h f k).memCanonical
  obtain ⟨u, hu⟩ : ∃ u, u = { delivered s f k with
      mem := busWriteBytes (delivered s f k).cfg.bus (delivered s f k).mem (metDesc s f k).w3.toNat (chunk s f k) } :=
    ⟨_, rfl⟩
  have huw : Memory.wf u.mem = true := by
    rw [hu]
    exact busWriteBytes_wf _ _ _ hw
  have hux : busRead u x = busRead (delivered s f k) x :=
    busRead_written_outside hw (by rw [hu]) (by rw [hu]) hbuf
  have hm : (delivered s f (k + 1)).mem =
      busWriteBytes u.cfg.bus u.mem (delivered s f k).rxCur.toNat (bytesOfDesc (backDesc s f k)) := by
    rw [hu]
    rfl
  have hcfg : (delivered s f (k + 1)).cfg = u.cfg := by
    rw [hu]
    rfl
  by_cases hin : (delivered s f k).rxCur.toNat ≤ x ∧ x < (delivered s f k).rxCur.toNat + 16
  · obtain ⟨i, rfl⟩ := Nat.exists_eq_add_of_le hin.1
    rw [← hux]
    refine busRead_written_same huw hcfg hm rfl ?_
    rw [backDesc, bytesOfDesc_stamped _ _ _ _ _ _ (by omega), metDesc, bytesOfDesc_descAt,
      busReadBytes_getElem? _ _ _ _ (by omega), hux]
  · rw [← hux]
    exact busRead_written_outside huw hcfg hm (by rw [bytesOfDesc_length]; omega)

/-- The bytes after `n` descriptors. -/
theorem busRead_delivered (h : s.DmaInv) {n x : Nat}
    (hx : ∀ k < n, (x < (delivered s f k).rxCur.toNat ∨ (delivered s f k).rxCur.toNat + 4 ≤ x) ∧
      (x < (metDesc s f k).w3.toNat ∨ (metDesc s f k).w3.toNat + (chunk s f k).length ≤ x)) :
    busRead (delivered s f n) x = busRead s x := by
  induction n with
  | zero => exact busRead_congr (t := delivered s f 0) rfl rfl x
  | succ n ih =>
    obtain ⟨hdesc, hbuf⟩ := hx n n.lt_succ_self
    rw [busRead_delivered_succ h hdesc hbuf, ih fun k hk => hx k (by omega)]

/-- Under the default BUS a visit that stores no byte leaves one ownership bit fewer (R146). -/
theorem card_ownBytes_delivered (h : s.DmaInv) (hz : s.cfg.bus.fill = .zero) {k : Nat} (h0 : chunk s f k = [])
    (ho : owned (metDesc s f k) = true) :
    (ownBytes (delivered s f (k + 1))).card < (ownBytes (delivered s f k)).card := by
  have hd := delivered_dma h f k
  have hc := hd.rxCurAligned
  refine card_ownBytes_lt hc ho ?_ fun x hx hne => busRead_delivered_succ h ?_ ?_
  · rw [owned_written (t := delivered s f (k + 1)) (d := backDesc s f k) hd.memCanonical rfl ?_
      (hasMemory_of_owned (by rw [delivered_cfg]; exact hz) ho)]
    · exact owned_backDesc s f k
    · rw [delivered_succ_mem, h0]
      rfl
  · rw [baseLow_eq_zero_iff] at hc
    omega
  · rw [h0, List.length_nil]
    omega

/-! ### Every run of the loop -/

/-- The loop ends where a measure falls with each visit. -/
theorem deliverLoop_ends (h : s.DmaInv) (μ : Nat → Nat)
    (hμ : ∀ k, bytesLeft s f k → owned (metDesc s f k) = true → μ (k + 1) < μ k) (k : Nat) {fuel : Nat}
    (hf : μ k < fuel) : deliverLoop s f fuel k ≠ .endless := by
  induction fuel generalizing k with
  | zero => omega
  | succ fuel ih =>
    rcases deliverLoop_cases fuel (delivered_dma h f k).rxCurAligned with
      ⟨-, hl⟩ | ⟨⟨hb, ho⟩, ⟨kind, hl⟩ | ⟨kind, hl⟩ | hl⟩ <;> rw [hl]
    · simp
    · simp
    · simp
    · have := hμ k hb ho
      exact ih (k + 1) (by omega)

/-- Under the default BUS the loop of a delivery ends: each visit stores bytes of the stream, or RBSR is 0 and each clears
an ownership bit (R146). -/
theorem deliverLoop_walkFuel_ends (h : s.DmaInv) (hz : s.cfg.bus.fill = .zero) :
    deliverLoop s f walkFuel 0 ≠ .endless := by
  by_cases hr : s.rbsr.toNat = 0
  · have h0 (k : Nat) : chunk s f k = [] := by rw [chunk, hr, List.take_zero]
    exact deliverLoop_ends h (fun k => (ownBytes (delivered s f k)).card)
      (fun k _ ho => card_ownBytes_delivered h hz (h0 k) ho) 0 (card_ownBytes_lt_walkFuel _)
  · refine deliverLoop_ends h (fun k => (rxStream s f).length - k * s.rbsr.toNat) (fun k hb _ => ?_) 0 ?_
    · rw [Nat.succ_mul]
      omega
    · rw [rxStream_length, walkFuel]
      unfold frameLimit
      split <;> omega

/-- The memory of `t` is that after some number of free descriptors filled with bytes that were left. -/
def DeliveryLeaves (s : State) (f : List Byte) (t : State) : Prop :=
  ∃ n, (∀ k < n, bytesLeft s f k ∧ owned (metDesc s f k) = true) ∧ t.mem = (delivered s f n).mem

/-- Wherever the loop ends, raising or not, visits alone changed memory (R140, R141). -/
theorem deliverLoop_leaves (h : s.DmaInv) (k fuel : Nat)
    (hk : ∀ j < k, bytesLeft s f j ∧ owned (metDesc s f j) = true) :
    Flow.Post (fun _ => DeliveryLeaves s f) (DeliveryLeaves s f) (deliverLoop s f fuel k) := by
  induction fuel generalizing k with
  | zero => trivial
  | succ fuel ih =>
    rcases deliverLoop_cases fuel (delivered_dma h f k).rxCurAligned with
      ⟨-, hl⟩ | ⟨hvisit, ⟨kind, hl⟩ | ⟨kind, hl⟩ | hl⟩ <;> rw [hl]
    · exact ⟨k, hk, loopEnd_mem s f k⟩
    · exact ⟨k, hk, rfl⟩
    · exact ⟨k + 1, Nat.forall_lt_succ_right.mpr ⟨hk, hvisit⟩, rfl⟩
    · exact ih (k + 1) (Nat.forall_lt_succ_right.mpr ⟨hk, hvisit⟩)

/-! ### Every delivery -/

/-- Under the default BUS every delivery ends (R146). -/
theorem deliverBody_ends (h : s.DmaInv) (hz : s.cfg.bus.fill = .zero) : deliverBody s f ≠ .endless := by
  unfold deliverBody
  split
  · have hpost : Flow.Post (fun _ => State.DmaInv) (fun _ => True) (deliverLoop s f walkFuel 0) :=
      Flow.post_mono (rxLoop_dma _ _ walkFuel _ _ (delivered_dma h f 0)) (fun _ _ h => h) fun _ _ => trivial
    rw [rxAccept_eq, ne_eq, Flow.bind_eq_endless, not_or]
    refine ⟨deliverLoop_walkFuel_ends h hz, ?_⟩
    rintro ⟨_, t, hgo, hscan⟩
    rw [hgo] at hpost
    exact enableScan_ends ((baseLow_eq_zero_iff _).mp hpost.rxCurAligned) hscan
  · exact nofun

/-- What a delivery leaves in memory, where it raises nothing and where it raises (R140, R141). -/
theorem deliverBody_leaves (h : s.DmaInv) :
    Flow.Post (fun _ => DeliveryLeaves s f) (DeliveryLeaves s f) (deliverBody s f) := by
  unfold deliverBody
  split
  · rw [rxAccept_eq]
    refine Flow.post_bind (deliverLoop_leaves h 0 walkFuel nofun) fun _ t ht => ?_
    refine Flow.post_mono (enableScan_post t) ?_ ?_
    · rintro _ _ ⟨b, rfl⟩
      exact ht
    · rintro _ ⟨kind, rfl⟩
      exact ht
  · exact ⟨0, nofun, rfl⟩

/-- A delivery that answers a next state changed what a part of a delivery can change (R130, R138). -/
theorem delivery_frame {t : State} (h : exec (.hostDeliver f) s = .next t) :
    t = { s with
          isr := t.isr, rxCur := t.rxCur, rxEnabled := t.rxEnabled, irqLevel := t.irqLevel, irqChanges := t.irqChanges
          diagTrace := t.diagTrace, mem := t.mem, faulted := t.faulted, response := .nothing } := by
  have hp : Flow.Post (fun _ => RxStep s) (RxRaised s) (deliverBody s f) := by
    unfold deliverBody
    split
    · exact rxAccept_post f s
    · exact .logged _
  obtain ⟨_, ⟨m, x, dg, c, e, -, rfl⟩, rfl⟩ | ⟨_, ⟨_, kind, ⟨m, x, dg, c, e, -, rfl⟩, rfl⟩, rfl⟩ :=
    exec_silent_post (opBody_deliver s f) hp h
  · rfl
  · rfl

theorem delivery_leaves {t : State} (hd : s.DmaInv) (h : exec (.hostDeliver f) s = .next t) :
    DeliveryLeaves s f t := by
  obtain ⟨u, hu, rfl⟩ | ⟨u, hu, rfl⟩ := exec_silent_post (opBody_deliver s f) (deliverBody_leaves hd) h
  · exact hu
  · exact hu

end Run

/-- Settles O56: the pass after `n` descriptors raises at its buffer or at its cursor step, or the loop ends and the rescan
raises. -/
theorem deliveryPastTheTopRaisesAddrWrap : Obligations.DeliveryPastTheTopRaisesAddrWrap := by
  unfold Obligations.DeliveryPastTheTopRaisesAddrWrap
  rintro s _ f _ n hf he hn hfills rfl rfl
  obtain ⟨fuel, hx⟩ := exec_deliver hf he hn hfills
  rw [hx]
  refine ⟨fun hb hfit ho hne hbuf => ?_, fun hb hlast ho hbuf heor => ?_, fun hstop hc hskip => ?_⟩
  · rw [deliverLoop_bufferPast fuel hb hfit ho hne hbuf]
    rfl
  · rw [deliverLoop_stepPast fuel hb hlast ho hbuf heor]
    rfl
  · rw [deliverLoop_stops fuel hstop, Flow.bind_go,
      enableScan_past_top (by rw [loopEnd_rxCur]; exact hc) fun k hk => ?_]
    · rfl
    · rw [loopEnd_rxCur] at hk ⊢
      rw [endOfRing_congr (loopEnd_cfg s f n), placeAt, descAt_congr (t := loopEnd s f n) (s := delivered s f n)
        ((loopEnd_cfg s f n).trans (delivered_cfg s f n).symm) (loopEnd_mem s f n)]
      exact hskip k hk

/-- Settles O46: the loop ends by the stream or the ownership bits, the rescan at the top, and the frame is that of the
parts of a delivery. -/
theorem everyDeliveryEnds : Obligations.EveryDeliveryEnds := by
  unfold Obligations.EveryDeliveryEnds
  intro s f hi hf hz
  have hd := ((State.inv_iff s).mp hi).1
  obtain ⟨t, ht⟩ := exec_silent_ends (opBody_deliver s f) hf (deliverBody_ends hd hz)
  exact ⟨t, ht, delivery_frame ht⟩

/-- Settles O55: the memory is that of the descriptors filled, and each visit leaves the rest. -/
theorem deliveryChangesOnlyDescriptorsAndBuffers : Obligations.DeliveryChangesOnlyDescriptorsAndBuffers := by
  unfold Obligations.DeliveryChangesOnlyDescriptorsAndBuffers
  intro s t f hi ht
  have hd := ((State.inv_iff s).mp hi).1
  have hcfg : t.cfg = s.cfg := by rw [delivery_frame ht]
  obtain ⟨n, hn, hm⟩ := delivery_leaves hd ht
  refine ⟨n, hn, hm, fun x hx => ?_⟩
  rw [busRead_congr (hcfg.trans (delivered_cfg s f n).symm) hm]
  exact busRead_delivered hd hx

end Sys2Proof.Claims

/-! PROOFS. The codec (R60 to R64, R81, R84): what the decoder answers for each form of request, which words are
operations, and the row of the opcode table that takes a word. -/

namespace Sys2Proof

open Sys2Proof.Machine

/-! ### Decoding a composed request -/

@[simp] theorem decode_readRequest (sz : BitVec 2) (off : Offset) :
    decode (readRequest sz off) = .ok (decodeRead sz off) := by
  simp [decode, readRequest]

@[simp] theorem decode_writeRequest (sz : BitVec 2) (off : Offset) (v : DWord) :
    decode (writeRequest sz off v) = .ok (decodeWrite sz off v) := by
  simp [decode, writeRequest]

section HostRequest
variable (ev : BitVec 4) (frame : List Byte) (up : Bool)

@[simp] theorem hostRequest_word : (hostRequest ev frame up).word = hostWord ev := rfl
@[simp] theorem hostRequest_frame : (hostRequest ev frame up).frame = frame := rfl
@[simp] theorem hostRequest_up : (hostRequest ev frame up).up = up := rfl

@[simp] theorem decode_hostRequest :
    decode (hostRequest ev frame up) = decodeHost (hostRequest ev frame up) := by
  simp [decode]

end HostRequest

/-! ### The register map -/

@[simp] theorem regAt_regOffset (r : Reg) : regAt (regOffset r) = some r := by
  cases r <;> rfl

@[simp] theorem offLow_regOffset (r : Reg) : offLow (regOffset r) = 0#2 := by
  cases r <;> rfl

theorem regOffset_of_regAt {off : Offset} {r : Reg} (h : regAt off = some r) : regOffset r = off := by
  simpa using List.find?_some h

/-! ### One access -/

/-- The rows an access falls under, by its size and its offset (R64, R111, R112). -/
theorem access_cases (sz : BitVec 2) (off : Offset) :
    sz = 0#2 ∨ sz = 1#2 ∨ sz = 3#2 ∨
      sz = 2#2 ∧ (offLow off = 1#2 ∨ offLow off = 2#2 ∨ offLow off = 3#2 ∨
        offLow off = 0#2 ∧ regAt off = none ∨ ∃ r, off = regOffset r) := by
  have two_bits : ∀ b : BitVec 2, b = 0#2 ∨ b = 1#2 ∨ b = 2#2 ∨ b = 3#2 := by decide
  obtain hsz | hsz | hsz | hsz := two_bits sz
  · exact .inl hsz
  · exact .inr (.inl hsz)
  · refine .inr (.inr (.inr ⟨hsz, ?_⟩))
    cases hr : regAt off with
    | some r => exact .inr (.inr (.inr (.inr ⟨r, (regOffset_of_regAt hr).symm⟩)))
    | none => obtain h | h | h | h := two_bits (offLow off) <;> simp [h]
  · exact .inr (.inr (.inl hsz))

section OpenOffset
variable {off : Offset}

theorem decodeRead_mis1 (h : offLow off = 1#2) : decodeRead 2#2 off = .badAccessRdMis1 off := by
  simp [decodeRead, h]

theorem decodeRead_mis2 (h : offLow off = 2#2) : decodeRead 2#2 off = .badAccessRdMis2 off := by
  simp [decodeRead, h]

theorem decodeRead_mis3 (h : offLow off = 3#2) : decodeRead 2#2 off = .badAccessRdMis3 off := by
  simp [decodeRead, h]

theorem decodeRead_unmapped (h : offLow off = 0#2) (hr : regAt off = none) :
    decodeRead 2#2 off = .rdUnmapped off := by
  simp [decodeRead, h, hr]

theorem decodeWrite_mis1 (v : DWord) (h : offLow off = 1#2) :
    decodeWrite 2#2 off v = .badAccessWrMis1 off (v.setWidth 32) := by
  simp [decodeWrite, h]

theorem decodeWrite_mis2 (v : DWord) (h : offLow off = 2#2) :
    decodeWrite 2#2 off v = .badAccessWrMis2 off (v.setWidth 32) := by
  simp [decodeWrite, h]

theorem decodeWrite_mis3 (v : DWord) (h : offLow off = 3#2) :
    decodeWrite 2#2 off v = .badAccessWrMis3 off (v.setWidth 32) := by
  simp [decodeWrite, h]

theorem decodeWrite_unmapped (v : DWord) (h : offLow off = 0#2) (hr : regAt off = none) :
    decodeWrite 2#2 off v = .wrUnmapped off (v.setWidth 32) := by
  simp [decodeWrite, h, hr]

end OpenOffset

theorem decodeRead_regOffset (r : Reg) : decodeRead 2#2 (regOffset r) = readOp r := by
  simp [decodeRead]

theorem decodeWrite_regOffset (r : Reg) (v : DWord) :
    decodeWrite 2#2 (regOffset r) v = writeOp (v.setWidth 32) r := by
  simp [decodeWrite]

theorem encode_readOp (r : Reg) : encode (readOp r) = readRequest 2#2 (regOffset r) := by
  cases r <;> rfl

theorem encode_writeOp (r : Reg) (v : Word) :
    encode (writeOp v r) = writeRequest 2#2 (regOffset r) (v.setWidth 64) := by
  cases r <;> rfl

theorem wellFormed_readOp (r : Reg) : (readOp r).wellFormed = true := by
  cases r <;> rfl

theorem wellFormed_writeOp (r : Reg) (v : Word) : (writeOp v r).wellFormed = true := by
  cases r <;> rfl

/-- What a read decodes to is well formed and has that read's word. -/
theorem decodeRead_sound (sz : BitVec 2) (off : Offset) :
    (decodeRead sz off).wellFormed = true ∧ (encode (decodeRead sz off)).word = mmioWord sz false off := by
  obtain rfl | rfl | rfl | ⟨rfl, h | h | h | ⟨h, hr⟩ | ⟨r, rfl⟩⟩ := access_cases sz off
  · exact ⟨rfl, rfl⟩
  · exact ⟨rfl, rfl⟩
  · exact ⟨rfl, rfl⟩
  · rw [decodeRead_mis1 h]
    exact ⟨by simp [Instr.wellFormed, h], rfl⟩
  · rw [decodeRead_mis2 h]
    exact ⟨by simp [Instr.wellFormed, h], rfl⟩
  · rw [decodeRead_mis3 h]
    exact ⟨by simp [Instr.wellFormed, h], rfl⟩
  · rw [decodeRead_unmapped h hr]
    exact ⟨by simp [Instr.wellFormed, h, hr], rfl⟩
  · rw [decodeRead_regOffset, encode_readOp]
    exact ⟨wellFormed_readOp r, rfl⟩

/-- What a write decodes to is well formed and has that write's word; of its value the access size is kept (log 18). -/
theorem decodeWrite_sound (sz : BitVec 2) (off : Offset) (v : DWord) :
    (decodeWrite sz off v).wellFormed = true ∧ (encode (decodeWrite sz off v)).word = mmioWord sz true off := by
  obtain rfl | rfl | rfl | ⟨rfl, h | h | h | ⟨h, hr⟩ | ⟨r, rfl⟩⟩ := access_cases sz off
  · exact ⟨rfl, rfl⟩
  · exact ⟨rfl, rfl⟩
  · exact ⟨rfl, rfl⟩
  · rw [decodeWrite_mis1 v h]
    exact ⟨by simp [Instr.wellFormed, h], rfl⟩
  · rw [decodeWrite_mis2 v h]
    exact ⟨by simp [Instr.wellFormed, h], rfl⟩
  · rw [decodeWrite_mis3 v h]
    exact ⟨by simp [Instr.wellFormed, h], rfl⟩
  · rw [decodeWrite_unmapped v h hr]
    exact ⟨by simp [Instr.wellFormed, h, hr], rfl⟩
  · rw [decodeWrite_regOffset, encode_writeOp]
    exact ⟨wellFormed_writeOp r _, rfl⟩

/-! ### One host event -/

/-- A host event that is not refused is well formed and has that event's word (R62). -/
theorem decodeHost_sound {r : Request} {i : Instr} (h : decodeHost r = .ok i) :
    i.wellFormed = true ∧ (encode i).word = hostWord (wordEvent r.word) := by
  have hword : ∀ ev : BitVec 4, (wordEvent r.word).toNat = ev.toNat → hostWord ev = hostWord (wordEvent r.word) :=
    fun _ hev => congrArg hostWord (BitVec.eq_of_toNat_eq hev.symm)
  unfold decodeHost at h
  split at h
  · next hev => cases h; exact ⟨rfl, hword 0#4 hev⟩
  · next hev => cases h; exact ⟨rfl, hword 1#4 hev⟩
  · next hev => cases h; exact ⟨rfl, hword 2#4 hev⟩
  · next hev => cases h; exact ⟨rfl, hword 3#4 hev⟩
  · cases h

theorem decodeHost_ok_iff (r : Request) : (∃ i, decodeHost r = .ok i) ↔ (wordEvent r.word).toNat < 4 := by
  rcases hev : (wordEvent r.word).toNat with _ | _ | _ | _ | n <;> simp [decodeHost, hev]

/-! ### Which words are operations (R81) -/

theorem wordClass_eq (w : Word) : wordClass w = decide (2 ^ 31 ≤ w.toNat) := by
  rw [wordClass, ← BitVec.msb_eq_getLsbD_last (x := w), BitVec.msb_eq_decide]

theorem mmioZeros_eq_zero_iff (w : Word) : mmioZeros w = 0 ↔ w.toNat % 2 ^ 31 < 2 ^ 16 := by
  rw [← BitVec.toNat_inj, mmioZeros, BitVec.extractLsb'_toNat, Nat.shiftRight_eq_div_pow]
  change _ = 0 ↔ _
  omega

theorem hostZeros_eq_zero_iff (w : Word) : hostZeros w = 0 ↔ w.toNat % 2 ^ 31 < 16 := by
  rw [← BitVec.toNat_inj, hostZeros, BitVec.extractLsb'_toNat, Nat.shiftRight_eq_div_pow]
  change _ = 0 ↔ _
  omega

theorem wordEvent_toNat (w : Word) : (wordEvent w).toNat = w.toNat % 16 := by
  simp [wordEvent]

/-- The words of the operations: the accesses, and the four host events (R81). -/
def IsOperationWord (w : Word) : Prop := w.toNat < 0x10000 ∨ (0x80000000 ≤ w.toNat ∧ w.toNat < 0x80000004)

theorem decode_ok_iff (r : Request) : (∃ i, decode r = .ok i) ↔ IsOperationWord r.word := by
  have hw := r.word.isLt
  unfold decode IsOperationWord
  simp only [wordClass_eq, mmioZeros_eq_zero_iff, hostZeros_eq_zero_iff, decide_eq_true_eq]
  split
  · split
    · rw [decodeHost_ok_iff, wordEvent_toNat]
      omega
    · exact iff_of_false (by simp) (by omega)
  · split
    · exact iff_of_true ⟨_, rfl⟩ (by omega)
    · exact iff_of_false (by simp) (by omega)

/-! ### The rows of the opcode table (R84) -/

/-- No word matches both rows: they fix some bit differently. -/
def OpcodeRow.Disjoint (a b : OpcodeRow) : Prop := a.pattern &&& b.mask ≠ b.pattern &&& a.mask

theorem OpcodeRow.Disjoint.not_matches {a b : OpcodeRow} (h : a.Disjoint b) {w : Word}
    (ha : w &&& a.mask = a.pattern) : w &&& b.mask ≠ b.pattern := by
  intro hb
  apply h
  rw [← ha, ← hb, BitVec.and_assoc, BitVec.and_assoc, BitVec.and_comm a.mask]

/-- The rows of priority 0 and 1 share no word. -/
theorem bestRows_disjoint : (exactRows ++ invalidRows).Pairwise OpcodeRow.Disjoint := by
  unfold OpcodeRow.Disjoint
  decide

theorem unmappedRows_disjoint : unmappedRows.Pairwise OpcodeRow.Disjoint := by
  unfold OpcodeRow.Disjoint
  decide

/-- A row of a better priority that shares a word with an unmapped row is the row of one register (R63, R112). -/
theorem unmapped_disjoint_or_register :
    ∀ u ∈ unmappedRows, ∀ b ∈ exactRows ++ invalidRows, u.Disjoint b ∨
      (b.mask = 0xFFFFFFFF#32 ∧ regAt (wordOff b.pattern) ≠ none) := by
  unfold OpcodeRow.Disjoint
  decide

/-- The words of each row lie between its pattern and its pattern with the open bits set, all operations. -/
theorem row_range :
    ∀ row ∈ opcodeTable, row.pattern.toNat + (~~~row.mask).toNat < 0x10000 ∨
      (0x80000000 ≤ row.pattern.toNat ∧ row.pattern.toNat + (~~~row.mask).toNat < 0x80000004) := by
  decide

theorem toNat_bounds_of_and_eq {w m p : Word} (h : w &&& m = p) :
    p.toNat ≤ w.toNat ∧ w.toNat ≤ p.toNat + (~~~m).toNat := by
  have hsum : w = p + (w &&& ~~~m) := by
    rw [← h, BitVec.add_eq_or_of_and_eq_zero, ← BitVec.and_or_distrib_left, BitVec.or_not_self, BitVec.and_allOnes]
    rw [BitVec.and_comm w (~~~m), BitVec.and_assoc, ← BitVec.and_assoc m, BitVec.and_not_self]
    simp
  have hopen : (w &&& ~~~m).toNat ≤ (~~~m).toNat := Nat.and_le_right
  have hfixed : p.toNat ≤ w.toNat := h ▸ Nat.and_le_left
  bv_omega

theorem isOperationWord_of_matches {row : OpcodeRow} {w : Word} (hrow : row ∈ opcodeTable)
    (hm : w &&& row.mask = row.pattern) : IsOperationWord w := by
  have hrange := row_range row hrow
  obtain ⟨hlow, hhigh⟩ := toNat_bounds_of_and_eq hm
  unfold IsOperationWord
  omega

theorem find?_of_disjoint {rows : List OpcodeRow} (hd : rows.Pairwise OpcodeRow.Disjoint) {row : OpcodeRow}
    (hrow : row ∈ rows) {w : Word} (hm : w &&& row.mask = row.pattern) :
    rows.find? (fun row => w &&& row.mask == row.pattern) = some row := by
  induction hd with
  | nil => cases hrow
  | @cons first rest hfirst _ ih =>
    obtain rfl | hrest := List.mem_cons.mp hrow
    · simp [hm]
    · have hnot : w &&& first.mask ≠ first.pattern := fun hf => (hfirst row hrest).not_matches hf hm
      simp [hnot, ih hrest]

theorem tableRow_of_best {row : OpcodeRow} (hrow : row ∈ exactRows ++ invalidRows) {w : Word}
    (hm : w &&& row.mask = row.pattern) : tableRow w = some row := by
  rw [tableRow, opcodeTable, List.find?_append, find?_of_disjoint bestRows_disjoint hrow hm, Option.some_or]

theorem tableRow_of_unmapped {row : OpcodeRow} (hrow : row ∈ unmappedRows) {w : Word}
    (hm : w &&& row.mask = row.pattern) (hoff : regAt (wordOff w) = none) : tableRow w = some row := by
  have hnone : (exactRows ++ invalidRows).find? (fun row => w &&& row.mask == row.pattern) = none := by
    refine List.find?_eq_none.mpr fun best hbest hmatch => ?_
    have hb : w &&& best.mask = best.pattern := eq_of_beq hmatch
    obtain hd | ⟨hmask, hreg⟩ := unmapped_disjoint_or_register row hrow best hbest
    · exact OpcodeRow.Disjoint.not_matches hd hm hb
    · rw [hmask] at hb
      have hw : w = best.pattern := BitVec.and_allOnes.symm.trans hb
      exact hreg (hw ▸ hoff)
  rw [tableRow, opcodeTable, List.find?_append, hnone, Option.none_or,
    find?_of_disjoint unmappedRows_disjoint hrow hm]

/-! ### The row of an operation -/

/-- Every well-formed operation's word has the fixed bits of a row of its mnemonic: the laws of the rows as one. -/
theorem encode_fits : ∀ i : Instr, Laws.WordFits.Statement i
  | .rdIsr => Laws.WordFits.rdIsr
  | .wrIsr value => Laws.WordFits.wrIsr value
  | .rdIer => Laws.WordFits.rdIer
  | .wrIer value => Laws.WordFits.wrIer value
  | .rdMadr => Laws.WordFits.rdMadr
  | .wrMadr value => Laws.WordFits.wrMadr value
  | .rdLadr => Laws.WordFits.rdLadr
  | .wrLadr value => Laws.WordFits.wrLadr value
  | .rdNptxpd => Laws.WordFits.rdNptxpd
  | .wrNptxpd value => Laws.WordFits.wrNptxpd value
  | .rdRxpd => Laws.WordFits.rdRxpd
  | .wrRxpd value => Laws.WordFits.wrRxpd value
  | .rdNptxrBadr => Laws.WordFits.rdNptxrBadr
  | .wrNptxrBadr value => Laws.WordFits.wrNptxrBadr value
  | .rdRxrBadr => Laws.WordFits.rdRxrBadr
  | .wrRxrBadr value => Laws.WordFits.wrRxrBadr value
  | .rdAptc => Laws.WordFits.rdAptc
  | .wrAptc value => Laws.WordFits.wrAptc value
  | .rdRbsr => Laws.WordFits.rdRbsr
  | .wrRbsr value => Laws.WordFits.wrRbsr value
  | .rdMaccr => Laws.WordFits.rdMaccr
  | .wrMaccr value => Laws.WordFits.wrMaccr value
  | .rdPhycr => Laws.WordFits.rdPhycr
  | .wrPhycr value => Laws.WordFits.wrPhycr value
  | .rdPhydata => Laws.WordFits.rdPhydata
  | .wrPhydata value => Laws.WordFits.wrPhydata value
  | .hostDeliver frame => Laws.WordFits.hostDeliver frame
  | .hostLink up => Laws.WordFits.hostLink up
  | .hostReset => Laws.WordFits.hostReset
  | .hostCanReceive => Laws.WordFits.hostCanReceive
  | .badAccessRdB off => Laws.WordFits.badAccessRdB off
  | .badAccessRdH off => Laws.WordFits.badAccessRdH off
  | .badAccessRdD off => Laws.WordFits.badAccessRdD off
  | .badAccessRdMis1 off => Laws.WordFits.badAccessRdMis1 off
  | .badAccessRdMis2 off => Laws.WordFits.badAccessRdMis2 off
  | .badAccessRdMis3 off => Laws.WordFits.badAccessRdMis3 off
  | .badAccessWrB off value => Laws.WordFits.badAccessWrB off value
  | .badAccessWrH off value => Laws.WordFits.badAccessWrH off value
  | .badAccessWrD off value => Laws.WordFits.badAccessWrD off value
  | .badAccessWrMis1 off value => Laws.WordFits.badAccessWrMis1 off value
  | .badAccessWrMis2 off value => Laws.WordFits.badAccessWrMis2 off value
  | .badAccessWrMis3 off value => Laws.WordFits.badAccessWrMis3 off value
  | .rdUnmapped off => Laws.WordFits.rdUnmapped off
  | .wrUnmapped off value => Laws.WordFits.wrUnmapped off value

/-- Only an unmapped access has the mnemonic of an unmapped row, and its offset is unlisted (R112, R113). -/
theorem regAt_none_of_unmapped_mnemonic {i : Instr} (h : i.wellFormed = true) {row : OpcodeRow}
    (hrow : row ∈ unmappedRows) (hname : row.mnemonic = i.mnemonic) : regAt (wordOff (encode i).word) = none := by
  have hn : i.mnemonic = "RD_UNMAPPED" ∨ i.mnemonic = "WR_UNMAPPED" := by
    simpa [unmappedRows, ← hname] using List.mem_map_of_mem (f := OpcodeRow.mnemonic) hrow
  cases i with
  | rdUnmapped off => simpa [encode, readRequest] using (Bool.and_eq_true_iff.mp h).2
  | wrUnmapped off v => simpa [encode, writeRequest] using (Bool.and_eq_true_iff.mp h).2
  | _ => simp [Instr.mnemonic] at hn

theorem tableRow_encode {i : Instr} (h : i.wellFormed = true) :
    ∃ row, tableRow (encode i).word = some row ∧ row.mnemonic = i.mnemonic := by
  obtain ⟨row, hrow, hname, hm⟩ := encode_fits i h
  refine ⟨row, ?_, hname⟩
  obtain hbest | hlast := List.mem_append.mp hrow
  · exact tableRow_of_best hbest hm
  · exact tableRow_of_unmapped hlast hm (regAt_none_of_unmapped_mnemonic h hlast hname)

theorem tableRow_none_iff (w : Word) : tableRow w = none ↔ ∀ row ∈ opcodeTable, w &&& row.mask ≠ row.pattern := by
  simp [tableRow]

/-! ### Encoding and decoding -/

theorem decode_readRequest_regOffset (r : Reg) : decode (readRequest 2#2 (regOffset r)) = .ok (readOp r) := by
  rw [decode_readRequest, decodeRead_regOffset]

theorem decode_writeRequest_regOffset (r : Reg) (v : Word) :
    decode (writeRequest 2#2 (regOffset r) (v.setWidth 64)) = .ok (writeOp v r) := by
  simp [decodeWrite_regOffset]

theorem decode_encode {i : Instr} (h : i.wellFormed = true) : decode (encode i) = .ok i := by
  cases i with
  | rdIsr | rdIer | rdMadr | rdLadr | rdNptxpd | rdRxpd | rdNptxrBadr | rdRxrBadr | rdAptc | rdRbsr | rdMaccr | rdPhycr
  | rdPhydata => exact decode_readRequest_regOffset _
  | wrIsr v | wrIer v | wrMadr v | wrLadr v | wrNptxpd v | wrRxpd v | wrNptxrBadr v | wrRxrBadr v | wrAptc v | wrRbsr v
  | wrMaccr v | wrPhycr v | wrPhydata v => exact decode_writeRequest_regOffset _ v
  | hostDeliver | hostLink | hostReset | hostCanReceive => simp [encode, decodeHost]
  | badAccessRdB off | badAccessRdH off | badAccessRdD off => exact decode_readRequest _ off
  | badAccessRdMis1 off => simp [encode, decodeRead_mis1 (eq_of_beq h)]
  | badAccessRdMis2 off => simp [encode, decodeRead_mis2 (eq_of_beq h)]
  | badAccessRdMis3 off => simp [encode, decodeRead_mis3 (eq_of_beq h)]
  | badAccessWrB off v => simp [encode, decodeWrite]
  | badAccessWrH off v => simp [encode, decodeWrite]
  | badAccessWrD off v => exact decode_writeRequest 3#2 off v
  | badAccessWrMis1 off v => simp [encode, decodeWrite_mis1 _ (eq_of_beq h)]
  | badAccessWrMis2 off v => simp [encode, decodeWrite_mis2 _ (eq_of_beq h)]
  | badAccessWrMis3 off v => simp [encode, decodeWrite_mis3 _ (eq_of_beq h)]
  | rdUnmapped off =>
    obtain ⟨ha, hr⟩ := Bool.and_eq_true_iff.mp h
    simp [encode, decodeRead_unmapped (eq_of_beq ha) (by simpa using hr)]
  | wrUnmapped off v =>
    obtain ⟨ha, hr⟩ := Bool.and_eq_true_iff.mp h
    simp [encode, decodeWrite_unmapped _ (eq_of_beq ha) (by simpa using hr)]

theorem decode_sound {r : Request} {i : Instr} (h : decode r = .ok i) :
    i.wellFormed = true ∧ (encode i).word = r.word := by
  unfold decode at h
  split at h
  · next hclass =>
    split at h
    · next hzeros =>
      rw [eq_hostWord r.word hclass hzeros]
      simpa using decodeHost_sound h
    · cases h
  · next hclass =>
    split at h
    · next hzeros =>
      have hword := eq_mmioWord r.word (Bool.eq_false_of_not_eq_true hclass) hzeros
      split at h
      · next hdir =>
        cases h
        rw [hword, hdir]
        simpa using decodeWrite_sound (wordSize r.word) (wordOff r.word) r.value
      · next hdir =>
        cases h
        rw [hword, Bool.eq_false_of_not_eq_true hdir]
        simpa using decodeRead_sound (wordSize r.word) (wordOff r.word)
    · cases h

end Sys2Proof

namespace Sys2Proof.Machine

/-- The step that takes a presented operation runs that request (R44). -/
theorem step_op {s : State} {r : Request} {rest : List Input} (hf : s.faulted = none) (hp : s.pending = .op r :: rest) :
    step s = runRequest r { s with pending := rest } := by
  simp only [step, stepNext, hf, hp, runInput]

end Sys2Proof.Machine

namespace Sys2Proof.Claims

open Sys2Proof.Machine

/-- Settles O1: row by row, the decoder reads the fields back that the encoder wrote. -/
theorem decodeOfEncodeIsTheOperation : Obligations.DecodeOfEncodeIsTheOperation := by
  unfold Obligations.DecodeOfEncodeIsTheOperation
  exact fun _ => decode_encode

/-- Settles O2: a word the decoder takes is made of its fields, and they are what its operation encodes to. -/
theorem decodedWordIsTheEncodedWord : Obligations.DecodedWordIsTheEncodedWord := by
  unfold Obligations.DecodedWordIsTheEncodedWord
  exact fun _ _ => decode_sound

/-- Settles O3: the decoded operation's word selects the row of its mnemonic, and a row's words are all operations. -/
theorem decoderSelectsFirstMatchingRow : Obligations.DecoderSelectsFirstMatchingRow := by
  unfold Obligations.DecoderSelectsFirstMatchingRow
  intro r
  split
  · next i hd =>
    obtain ⟨hwf, hword⟩ := decode_sound hd
    rw [← hword]
    exact tableRow_encode hwf
  · next e hd =>
    refine (tableRow_none_iff r.word).mpr fun row hrow hm => ?_
    obtain ⟨i, hi⟩ := (decode_ok_iff r).mpr (isOperationWord_of_matches hrow hm)
    rw [hd] at hi
    cases hi

/-- Settles O4: the decoder evaluated on each word. -/
theorem sampleWordsDecode : Obligations.SampleWordsDecode := by
  unfold Obligations.SampleWordsDecode
  decide

/-- Settles O5: a reserved word is no operation's, so the decoder answers an error and the step refuses with it. -/
theorem reservedWordsAreRefused : Obligations.ReservedWordsAreRefused := by
  unfold Obligations.ReservedWordsAreRefused
  intro s r rest hf hp hw
  rw [step_op hf hp, runRequest]
  cases hd : decode r with
  | error e => exact ⟨e, rfl⟩
  | ok i =>
    have hop := (decode_ok_iff r).mp ⟨i, hd⟩
    have hclass := wordClass_eq r.word
    unfold wordClass at hclass
    unfold IsOperationWord at hop
    simp only [hclass, decide_eq_true_eq, decide_eq_false_iff_not] at hw
    omega

end Sys2Proof.Claims

/-! PROOFS. Register access (R85 to R114): the register fields in the statements' terms, how a body that raises nothing
or raises at once ends its operation, the two ways a MACCR write goes on, and what an access word decodes to. -/

namespace Sys2Proof.Machine

open Sys2Proof.Claims

/-! ### The register fields -/

/-- R.MADR as shifts of its bytes (R67). -/
theorem madrValue_eq (m : MacAddr) : madrValue m = m.b0.setWidth 32 <<< 8 ||| m.b1.setWidth 32 := by
  have h := BitVec.setWidth_append_append_eq_shiftLeft_setWidth_or (b := 0#16) (b' := m.b0) (b'' := m.b1) (w''' := 32)
  simpa [madrValue] using h

/-- R.LADR as shifts of its bytes (R67). -/
theorem ladrValue_eq (m : MacAddr) :
    ladrValue m = m.b2.setWidth 32 <<< 24 ||| m.b3.setWidth 32 <<< 16 ||| m.b4.setWidth 32 <<< 8
      ||| m.b5.setWidth 32 := by
  have h := BitVec.setWidth_append_append_append_eq_shiftLeft_setWidth_or (b := m.b2) (b' := m.b3) (b'' := m.b4)
    (b''' := m.b5) (w'''' := 32)
  simpa [ladrValue] using h

/-- A field of a word: the word shifted down and cut to the field's width. -/
theorem extractLsb'_eq_setWidth {n : Nat} (w : BitVec n) (k len : Nat) :
    w.extractLsb' k len = (w >>> k).setWidth len := by
  apply BitVec.eq_of_toNat_eq
  simp

theorem withMadr_eq (v : Word) (m : MacAddr) :
    withMadr v m = { m with b0 := (v >>> 8).setWidth 8, b1 := v.setWidth 8 } := by
  simp [withMadr, extractLsb'_eq_setWidth]

theorem withLadr_eq (v : Word) (m : MacAddr) :
    withLadr v m = { m with
      b2 := (v >>> 24).setWidth 8, b3 := (v >>> 16).setWidth 8, b4 := (v >>> 8).setWidth 8, b5 := v.setWidth 8 } := by
  simp [withLadr, extractLsb'_eq_setWidth]

theorem rbsrField_eq (v : Word) : rbsrField v = v.setWidth 14 := by
  simp [rbsrField, extractLsb'_eq_setWidth]

/-- R.PHYDATA keeps the low half of a value (R70, R110). -/
theorem phydataStored_eq (v : Word) : phydataStored v = v &&& 0x0000FFFF#32 := by
  have hlow : v.toNat &&& 0xFFFF = v.toNat % 2 ^ 16 := Nat.and_two_pow_sub_one_eq_mod v.toNat 16
  apply BitVec.eq_of_toNat_eq
  simp [phydataStored, hlow]
  omega

/-! ### The end of an operation -/

/-- An operation whose body raises nothing (R114, R172). -/
theorem exec_go {i : Instr} {s u : State} {r : Response} (hf : s.faulted = none) (hb : opBody i s = .go r u) :
    exec i s = .next (ended r u) := by
  rw [exec_running hf, hb, finish_go, irqUpdate_eq_ended]

/-- An operation whose body raises a model fault and has changed nothing (R177). -/
theorem exec_raise {i : Instr} {s : State} {k : FaultKind} (hf : s.faulted = none) (hb : opBody i s = raise k s) :
    exec i s = .next (stopped k s) := by
  rw [exec_running hf, hb, raise, finish_raised]
  rfl

/-! ### MACCR -/

/-- RXDMA_EN written 0 stops reception (R134). -/
theorem maccrEnable_off {old v : Word} (s : State) (hv : v.getLsbD 1 = false) :
    maccrEnable old v s = .go () { s with rxEnabled := false } := by
  rw [maccrEnable, rxdmaEn, hv, if_neg Bool.false_ne_true]

/-- RXDMA_EN that was 1 and stays 1 starts nothing (R106). -/
theorem maccrEnable_kept {old v : Word} (s : State) (hv : v.getLsbD 1 = true) (ho : old.getLsbD 1 = true) :
    maccrEnable old v s = .go () s := by
  rw [maccrEnable, rxdmaEn, if_pos hv, rxdmaEn, if_pos ho]

/-- RXDMA_EN taken from 0 to 1 runs the enable scan (R132). -/
theorem maccrEnable_scan {old v : Word} (s : State) (hv : v.getLsbD 1 = true) (ho : old.getLsbD 1 = false) :
    maccrEnable old v s = enableScan s := by
  rw [maccrEnable, rxdmaEn, if_pos hv, rxdmaEn, ho, if_neg Bool.false_ne_true]

/-- A MACCR write without SW_RST whose enable part raises nothing (R106). -/
theorem exec_wrMaccr_go {s u : State} {v : Word} (hf : s.faulted = none) (hrst : v.getLsbD 31 = false)
    (hen : maccrEnable s.maccr v { s with maccr := v } = .go () u) :
    exec (.wrMaccr v) s = .next (ended .nothing u) := by
  refine exec_go hf ?_
  rw [opBody, swRst, hrst, if_neg Bool.false_ne_true, hen, Flow.bind_go]

end Sys2Proof.Machine

namespace Sys2Proof

open Sys2Proof.Machine Sys2Proof.Claims

/-! ### The fields of an access word (R60) -/

theorem wordOff_eq (w : Word) : wordOff w = w.setWidth 13 := by
  simp [wordOff, extractLsb'_eq_setWidth]

theorem offLow_wordOff_toNat (w : Word) : (offLow (wordOff w)).toNat = w.toNat % 4 := by
  simp [offLow, wordOff]

/-- The size of an access is the number of 0x4000 blocks below its word. -/
theorem wordSize_toNat {w : Word} (hw : w.toNat < 0x10000) : (wordSize w).toNat = w.toNat / 0x4000 := by
  rw [wordSize, BitVec.extractLsb'_toNat, Nat.shiftRight_eq_div_pow]
  omega

/-- Every word below 0x10000 is an access (R60, R81). -/
theorem decode_access {r : Request} (hw : r.word.toNat < 0x10000) :
    decode r = .ok (if r.word.getLsbD 13 then decodeWrite (wordSize r.word) (r.word.setWidth 13) r.value
      else decodeRead (wordSize r.word) (r.word.setWidth 13)) := by
  have hclass : ¬ wordClass r.word = true := by
    rw [wordClass_eq, decide_eq_true_eq]
    omega
  have hzeros : mmioZeros r.word = 0 := (mmioZeros_eq_zero_iff r.word).mpr (by omega)
  rw [decode, if_neg hclass, if_pos hzeros, wordOff_eq]
  rfl

/-! ### Invalid accesses (R111) -/

/-- The kinds of invalid access: three sizes, three misalignments. -/
theorem invalid_cases {sz : BitVec 2} {off : Offset} (h : sz ≠ 2#2 ∨ offLow off ≠ 0#2) :
    sz = 0#2 ∨ sz = 1#2 ∨ sz = 3#2 ∨ sz = 2#2 ∧ (offLow off = 1#2 ∨ offLow off = 2#2 ∨ offLow off = 3#2) := by
  obtain hsz | hsz | hsz | ⟨hsz, hoff⟩ := access_cases sz off
  · exact .inl hsz
  · exact .inr (.inl hsz)
  · exact .inr (.inr (.inl hsz))
  · have hmis : offLow off ≠ 0#2 := h.resolve_left (not_not_intro hsz)
    refine .inr (.inr (.inr ⟨hsz, ?_⟩))
    obtain ho | ho | ho | ⟨ho, -⟩ | ⟨r, rfl⟩ := hoff
    · exact .inl ho
    · exact .inr (.inl ho)
    · exact .inr (.inr ho)
    · exact absurd ho hmis
    · exact absurd (offLow_regOffset r) hmis

/-- An invalid read decodes to one of the twelve operations, one that answers a value. -/
theorem decodeRead_invalid {sz : BitVec 2} {off : Offset} (hinv : sz ≠ 2#2 ∨ offLow off ≠ 0#2) (b : Byte) (h : Half)
    (v : Word) (d : DWord) :
    ∃ p ∈ invalidAccesses off b h v d, decodeRead sz off = p.1 ∧ p.2 ≠ .nothing := by
  obtain rfl | rfl | rfl | ⟨rfl, ho | ho | ho⟩ := invalid_cases hinv
  · exact ⟨(.badAccessRdB off, .rd8 0#8), by simp [invalidAccesses], rfl, nofun⟩
  · exact ⟨(.badAccessRdH off, .rd16 0#16), by simp [invalidAccesses], rfl, nofun⟩
  · exact ⟨(.badAccessRdD off, .rd64 0#64), by simp [invalidAccesses], rfl, nofun⟩
  · exact ⟨(.badAccessRdMis1 off, .rd32 0#32), by simp [invalidAccesses], decodeRead_mis1 ho, nofun⟩
  · exact ⟨(.badAccessRdMis2 off, .rd32 0#32), by simp [invalidAccesses], decodeRead_mis2 ho, nofun⟩
  · exact ⟨(.badAccessRdMis3 off, .rd32 0#32), by simp [invalidAccesses], decodeRead_mis3 ho, nofun⟩

/-- An invalid write decodes to one of the twelve operations, one that answers nothing, with the value of its size. -/
theorem decodeWrite_invalid {sz : BitVec 2} {off : Offset} (hinv : sz ≠ 2#2 ∨ offLow off ≠ 0#2) (d : DWord) :
    ∃ p ∈ invalidAccesses off (d.setWidth 8) (d.setWidth 16) (d.setWidth 32) d,
      decodeWrite sz off d = p.1 ∧ p.2 = .nothing := by
  obtain rfl | rfl | rfl | ⟨rfl, ho | ho | ho⟩ := invalid_cases hinv
  · exact ⟨(.badAccessWrB off _, .nothing), by simp [invalidAccesses], rfl, rfl⟩
  · exact ⟨(.badAccessWrH off _, .nothing), by simp [invalidAccesses], rfl, rfl⟩
  · exact ⟨(.badAccessWrD off d, .nothing), by simp [invalidAccesses], rfl, rfl⟩
  · exact ⟨(.badAccessWrMis1 off _, .nothing), by simp [invalidAccesses], decodeWrite_mis1 d ho, rfl⟩
  · exact ⟨(.badAccessWrMis2 off _, .nothing), by simp [invalidAccesses], decodeWrite_mis2 d ho, rfl⟩
  · exact ⟨(.badAccessWrMis3 off _, .nothing), by simp [invalidAccesses], decodeWrite_mis3 d ho, rfl⟩

/-- Every invalid access does nothing but log DG_BAD_ACCESS (R111). -/
theorem opBody_invalid {off : Offset} {b : Byte} {h : Half} {v : Word} {d : DWord} {p : Instr × Response}
    (hp : p ∈ invalidAccesses off b h v d) (s : State) : opBody p.1 s = .go p.2 (diag .badAccess s) := by
  simp only [invalidAccesses, List.mem_cons, List.not_mem_nil, or_false] at hp
  obtain rfl | rfl | rfl | rfl | rfl | rfl | rfl | rfl | rfl | rfl | rfl | rfl := hp <;> rfl

/-! ### Unmapped accesses (R112, R113) -/

theorem regOffset_toNat_mem_listedOffsets (r : Reg) : (regOffset r).toNat ∈ listedOffsets := by
  cases r <;> decide

/-- An unlisted offset selects no register (R63). -/
theorem regAt_eq_none {off : Offset} (h : off.toNat ∉ listedOffsets) : regAt off = none := by
  cases hr : regAt off with
  | none => rfl
  | some r => exact absurd (regOffset_of_regAt hr ▸ regOffset_toNat_mem_listedOffsets r) h

end Sys2Proof

namespace Sys2Proof.Claims

open Sys2Proof.Machine

/-- Settles O12: the twelve operations log and answer; an access of another size or misaligned decodes to one of them, of
its direction. -/
theorem invalidAccessIsLoggedAndIgnored : Obligations.InvalidAccessIsLoggedAndIgnored := by
  unfold Obligations.InvalidAccessIsLoggedAndIgnored
  refine ⟨fun s off b h v d hf p hp => exec_go hf (opBody_invalid hp s), fun r hw hbad => ?_⟩
  have hinv : wordSize r.word ≠ 2#2 ∨ offLow (r.word.setWidth 13) ≠ 0#2 := by
    rw [← wordOff_eq, ne_eq, ne_eq, ← BitVec.toNat_inj, ← BitVec.toNat_inj, wordSize_toNat hw, offLow_wordOff_toNat]
    exact hbad
  rw [decode_access hw]
  cases hdir : r.word.getLsbD 13 with
  | true =>
    obtain ⟨p, hp, hop, hr⟩ := decodeWrite_invalid hinv r.value
    exact ⟨p, hp, congrArg Except.ok hop, iff_of_true hr rfl⟩
  | false =>
    obtain ⟨p, hp, hop, hr⟩ := decodeRead_invalid hinv (r.value.setWidth 8) (r.value.setWidth 16)
      (r.value.setWidth 32) r.value
    exact ⟨p, hp, congrArg Except.ok hop, iff_of_false hr Bool.false_ne_true⟩

/-- Settles O13: both operations log and answer; an aligned 4-byte access at an unlisted offset selects no register. -/
theorem unmappedAccessIsLoggedAndIgnored : Obligations.UnmappedAccessIsLoggedAndIgnored := by
  unfold Obligations.UnmappedAccessIsLoggedAndIgnored
  refine ⟨fun s off v hf => ⟨exec_go hf rfl, exec_go hf rfl⟩, fun r hw hsize halign hoff => ?_⟩
  have hsz : wordSize r.word = 2#2 := BitVec.eq_of_toNat_eq ((wordSize_toNat hw).trans hsize)
  have hlow : offLow (r.word.setWidth 13) = 0#2 := by
    rw [← wordOff_eq, ← BitVec.toNat_inj, offLow_wordOff_toNat]
    exact halign
  have hreg : regAt (r.word.setWidth 13) = none := regAt_eq_none (by rwa [BitVec.toNat_setWidth])
  rw [decode_access hw, hsz, decodeRead_unmapped hlow hreg, decodeWrite_unmapped r.value hlow hreg]

/-- Settles O14, for RXDMA_EN written 0, and for RXDMA_EN that stays 1. -/
theorem maccrWriteWithoutTransitionStores : Obligations.MaccrWriteWithoutTransitionStores := by
  unfold Obligations.MaccrWriteWithoutTransitionStores
  intro s v hf hrst hkeep
  cases hv : v.getLsbD 1 with
  | false => exact exec_wrMaccr_go hf hrst (maccrEnable_off _ hv)
  | true => exact exec_wrMaccr_go hf hrst (maccrEnable_kept _ hv (hkeep hv))

/-- Settles O15: the write runs the scan, which reads what the state before the write holds. -/
theorem rxDmaEnableScansForAFreeDescriptor : Obligations.RxDmaEnableScansForAFreeDescriptor := by
  unfold Obligations.RxDmaEnableScansForAFreeDescriptor
  intro s v n hf hrst hon hoff hstops
  have hscan : enableScan { s with maccr := v } =
      .go () { s with maccr := v, rxEnabled := owned (placeAt s s.rxCur n) } :=
    enableScan_of_stops (s := { s with maccr := v }) hstops
  exact exec_wrMaccr_go hf hrst ((maccrEnable_scan _ hon hoff).trans hscan)

/-- Settles O9: each word is a register's read, and each body answers that register's value. -/
theorem registerReadsAnswerTheirValue : Obligations.RegisterReadsAnswerTheirValue := by
  unfold Obligations.RegisterReadsAnswerTheirValue
  intro s hf p hp
  have hword : ∀ p ∈ registerReads s, decodeTableWord 32 p.1 = some p.2.1 := by
    simp only [registerReads, List.forall_mem_cons]
    decide
  have hbody : ∀ p ∈ registerReads s, opBody p.2.1 s = .go (.rd32 p.2.2) s := by
    simp [registerReads, opBody, madrValue_eq, ladrValue_eq, rbsrValue]
  exact ⟨hword p hp, exec_go hf (hbody p hp)⟩

/-- Settles O10: each word is a register's write, and each body has that register's effect. -/
theorem storingWritesStoreTheirField : Obligations.StoringWritesStoreTheirField := by
  unfold Obligations.StoringWritesStoreTheirField
  intro s v hf p hp
  have hword : ∀ p ∈ storingWrites v s, decode ⟨BitVec.ofNat 32 p.1, v.setWidth 64, [], false⟩ = .ok p.2.1 := by
    simp only [storingWrites, List.forall_mem_cons]
    exact ⟨decode_writeRequest_regOffset .isr v, decode_writeRequest_regOffset .ier v,
      decode_writeRequest_regOffset .madr v, decode_writeRequest_regOffset .ladr v,
      decode_writeRequest_regOffset .rxpd v, decode_writeRequest_regOffset .aptc v,
      decode_writeRequest_regOffset .rbsr v, decode_writeRequest_regOffset .phydata v, List.forall_mem_nil _⟩
  have hbody : ∀ p ∈ storingWrites v s, opBody p.2.1 s = .go .nothing p.2.2 := by
    simp [storingWrites, opBody, withMadr_eq, withLadr_eq, rbsrField_eq, phydataStored_eq]
  exact ⟨hword p hp, exec_go hf (hbody p hp)⟩

/-- Settles O11: an aligned value is stored twice, a misaligned one is raised with the register's offset. -/
theorem ringBaseWriteMovesTheCursor : Obligations.RingBaseWriteMovesTheCursor := by
  unfold Obligations.RingBaseWriteMovesTheCursor
  intro s v hf
  rw [← baseLow_eq_zero_iff, ne_eq, ← baseLow_eq_zero_iff]
  exact ⟨fun h => ⟨exec_go hf (if_pos h), exec_go hf (if_pos h)⟩,
    fun h => ⟨exec_raise hf (if_neg h), exec_raise hf (if_neg h)⟩⟩

/-- Settles O30: with TXDMA_EN = 0 the body of a kick is empty. -/
theorem kickWithoutTxDmaDoesNothing : Obligations.KickWithoutTxDmaDoesNothing := by
  unfold Obligations.KickWithoutTxDmaDoesNothing
  intro s v hf hoff
  refine exec_go hf ?_
  rw [opBody, txdmaEn, hoff, if_neg Bool.false_ne_true]

end Sys2Proof.Claims

/-! PROOFS. The kick that completes (R116 to R126): the visit of one descriptor for every accumulator, the visit of one
whose bytes fit, and the end of a loop after any number of visits. -/

namespace Sys2Proof.Claims

open Sys2Proof.Machine

/-! ### A visit whose bytes fit -/

section Whole

variable {w : Walk} (hfits : w.acc.length + sizeField w.desc ≤ frameLimit w.st)

include hfits

/-- The copy is not truncated (R119). -/
theorem Walk.takes_whole : w.takes = sizeField w.desc := if_neg hfits.not_gt

theorem Walk.copied_whole : w.copied = w.st := by
  rw [Walk.copied, if_neg hfits.not_gt, List.append_nil]

/-- A descriptor whose buffer lies in the address space is visited, and the walk moves on (R48, R118, R123). -/
theorem Walk.movesOn_whole (hcur : w.cur.toNat + 16 ≤ 2 ^ 32) (ho : owned w.desc = true)
    (hbuf : w.desc.w3.toNat + sizeField w.desc ≤ 2 ^ 32) (ha : canAdvance w.st w.cur w.desc w.st.txBase) : w.movesOn :=
  ⟨⟨hcur, ho, .inr (by rwa [Walk.takes_whole hfits])⟩, ha⟩

/-- A first or middle segment is copied and handed back; nothing is sent (R120, R122). -/
theorem Walk.visited_middle (hl : w.desc.w0.getLsbD 28 = false) :
    w.visited =
      { st := { w.st with mem := withDesc w.st w.st.mem w.cur (released w.desc) }
        acc := w.acc ++ busReadBytes w.st w.desc.w3.toNat (sizeField w.desc)
        cur := nextPlace w.st w.cur w.desc w.st.txBase } := by
  simp only [Walk.visited, Walk.handedBack, Walk.copied_whole hfits, Walk.frame, Walk.takes_whole hfits, hl,
    Bool.false_eq_true, if_false, List.append_nil, BitVec.or_zero]

/-- A last segment sends the frame whole, requests its cause and empties the accumulator (R120 to R122). -/
theorem Walk.visited_last (hl : w.desc.w0.getLsbD 28 = true) :
    w.visited =
      { st := { w.st with
          txOut := w.st.txOut ++ [w.acc ++ busReadBytes w.st w.desc.w3.toNat (sizeField w.desc)]
          isr := w.st.isr ||| requestedCause w.desc
          mem := withDesc w.st w.st.mem w.cur (released w.desc) }
        acc := []
        cur := nextPlace w.st w.cur w.desc w.st.txBase } := by
  simp only [Walk.visited, Walk.handedBack, Walk.copied_whole hfits, Walk.frame, Walk.takes_whole hfits, hl, if_true]

end Whole

/-! ### A kick that completes -/

/-- Where the loop of a kick starts when its locate scan stays at txCur (R116, R117). -/
def kickStart (s : State) : Walk := { st := s, acc := [], cur := s.txCur }

@[simp] theorem kickStart_acc (s : State) : (kickStart s).acc = [] := rfl

theorem walked_here (s : State) : walked s 0 0 = kickStart s := by
  simp [walked, kickStart]

theorem kickStart_fits {s : State} (h : sizeField (descAt s s.txCur) ≤ frameLimit s) :
    (kickStart s).acc.length + sizeField (kickStart s).desc ≤ frameLimit (kickStart s).st := by
  rwa [kickStart_acc, List.length_nil, Nat.zero_add]

/-- A kick visits the descriptor at txCur and moves on, where it is owned and its bytes fit (R118, R123). -/
theorem firstVisit_movesOn {s : State} (hfits : sizeField (descAt s s.txCur) ≤ frameLimit s)
    (hcur : s.txCur.toNat + 16 ≤ 2 ^ 32) (ho : owned (descAt s s.txCur) = true)
    (hbuf : (descAt s s.txCur).w3.toNat + sizeField (descAt s s.txCur) ≤ 2 ^ 32)
    (ha : canAdvance s s.txCur (descAt s s.txCur) s.txBase) : ∀ k < 1, (walked s 0 k).movesOn := by
  refine Nat.forall_lt_succ_right.mpr ⟨nofun, ?_⟩
  rw [walked_here]
  exact Walk.movesOn_whole (kickStart_fits hfits) hcur ho hbuf ha

/-- A locate scan stays at txCur where the descriptor there has FTS or the end-of-ring bit (R117). -/
theorem locateStops_here {s : State} (hc : s.txCur.toNat + 16 ≤ 2 ^ 32) (h : ¬ locateSkips s (descAt s s.txCur)) :
    locateStops s 0 :=
  ⟨hc, nofun, by rwa [placeAt_zero]⟩

/-- A descriptor fits `n` places on where the sum of the addresses does not pass the top (R48). -/
theorem placesOn_fits {c : Word} {n : Nat} (h : c.toNat + 16 * n + 16 ≤ 2 ^ 32) :
    (c + BitVec.ofNat 32 (16 * n)).toNat + 16 ≤ 2 ^ 32 := by
  rw [BitVec.toNat_add, BitVec.toNat_ofNat]
  omega

/-- A kick whose loop meets a descriptor that is not owned after `n` visits ends there (R118, R124). -/
theorem exec_kick_ended {s : State} {m n : Nat} {w : Walk} (v : Word) (hf : s.faulted = none)
    (he : s.maccr.getLsbD 0 = true) (hn : n ≤ 2 ^ 32) (hm : locateStops s m) (hw : ∀ k < n, (walked s m k).movesOn)
    (hend : walked s m n = w) (hcur : w.cur.toNat + 16 ≤ 2 ^ 32) (ho : owned w.desc = false) :
    exec (.wrNptxpd v) s = .next (ended .nothing { w.st with isr := w.st.isr ||| 0x40#32, txCur := w.cur }) := by
  have hfuel : walkFuel = n + ((2 ^ 32 - n) + 1) := by
    rw [walkFuel]
    omega
  rw [exec_kick v hf he, txKick_of_stops hm, hfuel, walked_loop hw, hend, Walk.loop_unowned _ hcur ho, Flow.bind_go,
    Flow.bind_go, finish_go, irqUpdate_eq_ended]

/-- Settles O57: the loop goes on through the visits and ends at the descriptor that is not owned. -/
theorem kickVisitsDescriptorsInOrder : Obligations.KickVisitsDescriptorsInOrder := by
  unfold Obligations.KickVisitsDescriptorsInOrder
  intro s v m n w hf he hn hm hw hend hcur ho
  exact exec_kick_ended v hf he hn hm hw hend.symm hcur ho

/-- Settles O31: the loop ends at the place the locate scan stops at, with no visit. -/
theorem kickStopsAtAnUnownedDescriptor : Obligations.KickStopsAtAnUnownedDescriptor := by
  unfold Obligations.KickStopsAtAnUnownedDescriptor
  intro s v n hf he hn hskip hstop ho
  exact exec_kick_ended (m := n) (n := 0) v hf he (Nat.zero_le _) ⟨hn, hskip, hstop⟩ nofun rfl (placesOn_fits hn) ho

/-- Settles O32: one visit, of a last segment with nothing accumulated before it. -/
theorem kickSendsAOneDescriptorFrame : Obligations.KickSendsAOneDescriptorFrame := by
  unfold Obligations.KickSendsAOneDescriptorFrame
  intro s v d m c hf he hcur hd ho hstop hl hfits hbuf ha hc hm hend
  have hlast : walked s 0 1 = { st := { s with
                                    mem := m
                                    txOut := s.txOut ++ [busReadBytes s d.w3.toNat (sizeField d)]
                                    isr := s.isr ||| requestedCause d }
                                acc := []
                                cur := c } := by
    subst hd hm hc
    rw [walked, walked_here]
    exact Walk.visited_last (kickStart_fits hfits) hl
  have hmoves : ∀ k < 1, (walked s 0 k).movesOn := by
    subst hd
    exact firstVisit_movesOn hfits hcur ho hbuf ha
  exact exec_kick_ended v hf he (by decide) (locateStops_here hcur (hd ▸ hstop)) hmoves hlast (hc ▸ ha.2) hend

/-- Settles O33: a visit of a segment that is not the last, then one of the last with the first's bytes accumulated. -/
theorem kickGathersATwoDescriptorFrame : Obligations.KickGathersATwoDescriptorFrame := by
  unfold Obligations.KickGathersATwoDescriptorFrame
  intro s v d e m m' c c' hf he hcur hd ho hstop hl hbuf ha hc hm hdesc ho' hl' hfits hbuf' ha' hc' hm' hend
  have hfits₁ : sizeField d ≤ frameLimit s := (Nat.le_add_right ..).trans hfits
  have hmiddle : walked s 0 1 = { st := { s with mem := m }
                                  acc := busReadBytes s d.w3.toNat (sizeField d)
                                  cur := c } := by
    subst hd hm hc
    rw [walked, walked_here]
    exact Walk.visited_middle (kickStart_fits hfits₁) hl
  have hmet : (walked s 0 1).desc = e := by rw [hmiddle, hdesc, Walk.desc]
  have hfits₂ : (walked s 0 1).acc.length + sizeField (walked s 0 1).desc ≤ frameLimit (walked s 0 1).st := by
    rw [hmet, hmiddle, busReadBytes_length]
    exact hfits
  have hlast : walked s 0 2 = { st := { s with
                                    mem := m'
                                    txOut := s.txOut ++ [busReadBytes s d.w3.toNat (sizeField d) ++
                                      busReadBytes { s with mem := m } e.w3.toNat (sizeField e)]
                                    isr := s.isr ||| requestedCause e }
                                acc := []
                                cur := c' } := by
    rw [walked, Walk.visited_last hfits₂ (hmet ▸ hl'), hmet, hmiddle, hm', hc']
    rfl
  have hmoves : ∀ k < 2, (walked s 0 k).movesOn := by
    refine Nat.forall_lt_succ_right.mpr ⟨?_, Walk.movesOn_whole hfits₂ ?_ (hmet ▸ ho') (hmet ▸ hbuf') ?_⟩
    · subst hd
      exact firstVisit_movesOn hfits₁ hcur ho hbuf ha
    · rw [hmiddle, hc]
      exact ha.2
    · rw [hmet, hmiddle]
      exact ha'
  exact exec_kick_ended v hf he (by decide) (locateStops_here hcur (hd ▸ hstop)) hmoves hlast (hc' ▸ ha'.2) hend

/-- Settles O34: copy, send, write-back and cursor rule in turn. -/
theorem txVisitCopiesSendsAndHandsBack : Obligations.TxVisitCopiesSendsAndHandsBack := by
  unfold Obligations.TxVisitCopiesSendsAndHandsBack
  rintro s acc cur d n frame hn hbuf hcur ha rfl
  have hlen : txCopyLen s acc d = n := (txCopyLen_eq s acc d).trans hn.symm
  have hback : d.handBack = released d := rfl
  rw [txVisit, txCopy_go hlen hbuf, Flow.bind_go, txSend_eq, Flow.bind_go, writeDesc_go _ hcur, Flow.bind_go, hback,
    advance_go (by rw [endOfRing_released]; exact ha), nextPlace, endOfRing_released]
  rfl

end Sys2Proof.Claims

/-! PROOFS. The delivery that raises nothing (R133 to R148): its end after any number of descriptors, its cases of none,
one and two, and the visit of one descriptor for every rest of a stream. -/

namespace Sys2Proof.Machine

open Sys2Proof.Claims

theorem placeAt_congr {s t : State} (hc : t.cfg = s.cfg) (hm : t.mem = s.mem) (c : Word) (k : Nat) :
    placeAt t c k = placeAt s c k :=
  descAt_congr hc hm _

/-- A scan reads the parameters and memory alone (R133). -/
theorem scanStops_congr {s t : State} (hc : t.cfg = s.cfg) (hm : t.mem = s.mem) {c : Word} {k : Nat} :
    scanStops t c k ↔ scanStops s c k := by
  simp only [scanStops, placeAt_congr hc hm, endOfRing_congr hc]

end Sys2Proof.Machine

namespace Sys2Proof.Claims

open Sys2Proof.Machine

/-! ### The first descriptor and the end -/

/-- Every stream has bytes, so a delivery begins with some left (R135, R138). -/
theorem bytesLeft_zero (s : State) (f : List Byte) : bytesLeft s f 0 := by
  have hroom := four_le_frameLimit s
  rw [bytesLeft, rxStream_length]
  omega

/-- The first descriptor a delivery meets is the one at rxCur (R138). -/
theorem metDesc_zero (s : State) (f : List Byte) : metDesc s f 0 = descAt s s.rxCur :=
  descAt_congr (t := delivered s f 0) rfl rfl _

/-- The stream is stored: the loop ends where the last descriptor left it (R138). -/
theorem loopEnd_stored {s : State} {f : List Byte} {n : Nat} (h : ¬ bytesLeft s f n) :
    loopEnd s f n = delivered s f n := if_neg h

/-- The rescan at the end of a delivery starts at the new rxCur and reads the memory the descriptors left (R145). -/
theorem enableScan_loopEnd {s : State} {f : List Byte} {n r : Nat}
    (h : scanStops (delivered s f n) (delivered s f n).rxCur r) :
    enableScan (loopEnd s f n) = .go ()
      { loopEnd s f n with rxEnabled := owned (placeAt (delivered s f n) (delivered s f n).rxCur r) } := by
  have hc : (loopEnd s f n).cfg = (delivered s f n).cfg := (loopEnd_cfg s f n).trans (delivered_cfg s f n).symm
  have hm := loopEnd_mem s f n
  rw [← scanStops_congr hc hm, ← loopEnd_rxCur] at h
  rw [← placeAt_congr hc hm, ← loopEnd_rxCur]
  exact enableScan_of_stops h

/-- Settles O54: the loop goes on through the descriptors it fills, stops, and the rescan ends the delivery. -/
theorem deliveryFillsDescriptorsInOrder : Obligations.DeliveryFillsDescriptorsInOrder := by
  unfold Obligations.DeliveryFillsDescriptorsInOrder
  intro s f n r hf he hn hfills hstop hscan
  have hfuel : walkFuel = n + ((2 ^ 32 - n) + 1) := by
    rw [walkFuel]
    omega
  refine exec_go hf ?_
  rw [opBody_deliver, deliverBody, he, if_pos rfl, rxAccept_eq, hfuel, deliverLoop_delivered hfills,
    deliverLoop_stops _ hstop, Flow.bind_go, enableScan_loopEnd hscan, Flow.bind_go]

/-- A delivery that stores its stream in `n` descriptors: they left the state `u`, whose memory is that of `v` (R138,
R145). -/
theorem exec_deliver_stored {s u v : State} {f : List Byte} {n r : Nat} (hf : s.faulted = none)
    (he : s.rxEnabled = true) (hn : n ≤ 2 ^ 32) (hfills : ∀ k < n, fillsAndMovesOn s f k) (hend : delivered s f n = u)
    (hlast : ¬ bytesLeft s f n) (hc : u.cfg = v.cfg) (hm : u.mem = v.mem) (hscan : scanStops v u.rxCur r) :
    exec (.hostDeliver f) s = .next (ended .nothing { u with rxEnabled := owned (placeAt v u.rxCur r) }) := by
  subst hend
  rw [← scanStops_congr hc hm] at hscan
  rw [deliveryFillsDescriptorsInOrder s f n r hf he hn hfills (.inl hlast) hscan, loopEnd_stored hlast,
    placeAt_congr hc hm]

/-! ### One descriptor more -/

section Next

variable {s u : State} {f bs : List Byte} {k : Nat} {d : Desc} (hu : delivered s f k = u) (hd : descAt u u.rxCur = d)
  (hbs : chunk s f k = bs)

include hu hd hbs

/-- A delivery that fills the descriptor it meets and moves on, in terms of the state `u` it meets it in (R48, R138). -/
theorem fillsAndMovesOn_of_met (hb : bytesLeft s f k) (hcur : u.rxCur.toNat + 16 ≤ 2 ^ 32) (ho : owned d = true)
    (hbuf : d.w3.toNat + bs.length ≤ 2 ^ 32) (ha : canAdvance s u.rxCur d s.rxBase) : fillsAndMovesOn s f k := by
  subst hu hd hbs
  exact ⟨hb, hcur, ho, hbuf, ha⟩

/-- The descriptor that takes the last of the stream: stamped last, RPKT_BUF set (R140 to R144). -/
theorem delivered_succ_last (hl : ¬ bytesLeft s f (k + 1)) :
    delivered s f (k + 1) =
      { u with
        mem := withDesc u (busWriteBytes u.cfg.bus u.mem d.w3.toNat bs) u.rxCur
          (stamped d bs.length (decide (k = 0)) true (isBroadcast f) (rxTooLong s f))
        isr := u.isr ||| 0x1#32
        rxCur := nextPlace u u.rxCur d u.rxBase } := by
  subst hu hd hbs
  rw [delivered, filled, if_neg hl, decide_eq_true hl]

/-- A descriptor with more of the stream to come: not stamped last, RPKT_FIFO set (R140 to R144). -/
theorem delivered_succ_middle (hl : bytesLeft s f (k + 1)) :
    delivered s f (k + 1) =
      { u with
        mem := withDesc u (busWriteBytes u.cfg.bus u.mem d.w3.toNat bs) u.rxCur
          (stamped d bs.length (decide (k = 0)) false (isBroadcast f) (rxTooLong s f))
        isr := u.isr ||| 0x2#32
        rxCur := nextPlace u u.rxCur d u.rxBase } := by
  subst hu hd hbs
  rw [delivered, filled, if_pos hl, decide_eq_false (not_not.mpr hl)]

end Next

/-! ### The statements -/

/-- Settles O45: no descriptor is filled, and all of the stream is left. -/
theorem deliveryWithoutFreeDescriptorIsDropped : Obligations.DeliveryWithoutFreeDescriptorIsDropped := by
  unfold Obligations.DeliveryWithoutFreeDescriptorIsDropped
  intro s f r hf he ho hscan
  have hfits : s.rxCur.toNat + 16 ≤ 2 ^ 32 := by
    obtain ⟨htop, -⟩ := hscan
    omega
  have hplace : placeAt (delivered s f 0) s.rxCur r = placeAt s s.rxCur r := placeAt_congr rfl rfl _ _
  have hstop : stopsAfter s f 0 := .inr ⟨hfits, (metDesc_zero s f).symm ▸ ho⟩
  have hx := deliveryFillsDescriptorsInOrder s f 0 r hf he (Nat.zero_le _) nofun hstop
    ((scanStops_congr (t := delivered s f 0) rfl rfl).mpr hscan)
  rw [loopEnd, if_pos (bytesLeft_zero s f)] at hx
  rw [hx, ← hplace]
  rfl

/-- Settles O43: the first descriptor takes the whole stream. -/
theorem deliveryFillsOneDescriptor : Obligations.DeliveryFillsOneDescriptor := by
  unfold Obligations.DeliveryFillsOneDescriptor
  intro s f d m c r hf he hcur hd ho hlen hbuf ha hc hm hscan
  have hmet : metDesc s f 0 = d := (metDesc_zero s f).trans hd.symm
  have hchunk : chunk s f 0 = rxStream s f := by
    rw [chunk, Nat.zero_mul, List.drop_zero, List.take_of_length_le hlen]
  have hlast : ¬ bytesLeft s f 1 := by
    rw [bytesLeft, Nat.one_mul]
    exact hlen.not_gt
  have hfills : ∀ k < 1, fillsAndMovesOn s f k :=
    Nat.forall_lt_succ_right.mpr
      ⟨nofun, fillsAndMovesOn_of_met rfl hmet hchunk (bytesLeft_zero s f) hcur ho hbuf ha⟩
  have hone := delivered_succ_last rfl hmet hchunk hlast
  subst hc hm
  exact exec_deliver_stored hf he (by decide) hfills hone hlast rfl rfl hscan

/-- Settles O44: the first descriptor takes RBSR bytes of the stream, the second the rest. -/
theorem deliverySpansTwoDescriptors : Obligations.DeliverySpansTwoDescriptors := by
  unfold Obligations.DeliverySpansTwoDescriptors
  intro s f d e m m' c c' n r hf he hcur hd ho hn hpos hmore hlen hbuf ha hc hm hdesc ho' hbuf' ha' hc' hm' hscan
  have hmet : metDesc s f 0 = d := (metDesc_zero s f).trans hd.symm
  have hchunk : chunk s f 0 = (rxStream s f).take n := by rw [chunk, Nat.zero_mul, List.drop_zero, hn]
  have htaken : ((rxStream s f).take n).length = n := List.length_take_of_le hmore.le
  have hchunk' : chunk s f 1 = (rxStream s f).drop n := by
    rw [chunk, Nat.one_mul, ← hn, List.take_of_length_le]
    rw [List.length_drop]
    omega
  have hleft : bytesLeft s f 1 := by rwa [bytesLeft, Nat.one_mul, ← hn]
  have hlast : ¬ bytesLeft s f 2 := by
    rw [bytesLeft, ← hn]
    exact hlen.not_gt
  have hone : delivered s f 1 =
      { delivered s f 0 with mem := m, isr := s.isr ||| 0x2#32, rxCur := c } := by
    subst hc hm
    rw [delivered_succ_middle rfl hmet hchunk hleft, htaken]
    rfl
  have hmet' : descAt { s with mem := m } c = e := hdesc.symm
  have hfills : ∀ k < 2, fillsAndMovesOn s f k := by
    refine Nat.forall_lt_succ_right.mpr ⟨Nat.forall_lt_succ_right.mpr ⟨nofun, ?_⟩, ?_⟩
    · exact fillsAndMovesOn_of_met rfl hmet hchunk (bytesLeft_zero s f) hcur ho (htaken.symm ▸ hbuf) ha
    · exact fillsAndMovesOn_of_met hone hmet' hchunk' hleft (hc ▸ ha.2) ho' (by rwa [List.length_drop]) ha'
  have htwo := delivered_succ_last hone hmet' hchunk' hlast
  rw [List.length_drop] at htwo
  subst hc' hm'
  have hcauses : s.isr ||| 0x2#32 ||| 0x1#32 = s.isr ||| 0x3#32 := BitVec.or_assoc ..
  rw [← hcauses]
  exact exec_deliver_stored hf he (by decide) hfills htwo hlast rfl rfl hscan

/-- Settles O42: buffer, write-back, cause and cursor rule in turn. -/
theorem rxVisitFillsOneDescriptor : Obligations.RxVisitFillsOneDescriptor := by
  unfold Obligations.RxVisitFillsOneDescriptor
  intro s first bc ftl rest d n final hn hfinal hbuf hcur ha
  have hle : n ≤ rest.length := hn ▸ Nat.min_le_left ..
  have hlt : n < 2 ^ 14 := hn ▸ (Nat.min_le_right ..).trans_lt s.rbsr.isLt
  have hempty : (rest.drop n).isEmpty = final := by
    rw [hfinal, Bool.eq_iff_iff, List.isEmpty_iff, List.drop_eq_nil_iff, decide_eq_true_eq]
    omega
  have hbuf' : rest.take n = [] ∨ d.w3.toNat + (rest.take n).length ≤ 2 ^ 32 := by
    rw [List.length_take_of_le hle]
    exact hbuf.imp_left fun h0 => by rw [h0, List.take_zero]
  rw [rxVisit_eq first bc ftl hn.symm hcur hbuf', hempty, advance_go (by rw [endOfRing_stamped _ d hlt]; exact ha),
    Flow.bind_go, nextPlace, endOfRing_stamped _ d hlt]
  rfl

/-- Settles O40: a delivery while not enabled logs and does nothing else. -/
theorem deliveryWhileNotEnabledIsDropped : Obligations.DeliveryWhileNotEnabledIsDropped := by
  unfold Obligations.DeliveryWhileNotEnabledIsDropped
  exact fun _ _ hf hoff => exec_go hf (if_neg (Bool.eq_false_iff.mp hoff))

/-- Settles O39: the body of CAN_RECEIVE answers the flag. -/
theorem canReceiveAnswersTheStoredFlag : Obligations.CanReceiveAnswersTheStoredFlag := by
  unfold Obligations.CanReceiveAnswersTheStoredFlag
  exact fun _ hf => exec_go hf rfl

end Sys2Proof.Claims

/-! PROOFS. The PHY and its MDIO access (R150 to R168): each index of an MDIO access in the statements' own terms, what a
read or a write of it does to the PHY, and how the operation that asked for it ends. -/

namespace Sys2Proof.Machine

open Sys2Proof.Claims

/-! ### The index -/

/-- REGAD is the field that the access uses (R69). -/
theorem regad_eq (v : Word) : regad v = (phycrReg v).toNat := by
  rw [phycrReg, BitVec.extractLsb'_toNat, regad, BitVec.toNat_ushiftRight]

theorem phycrReg_eq {v : Word} {reg : BitVec 5} (h : regad v = reg.toNat) : phycrReg v = reg :=
  BitVec.eq_of_toNat_eq ((regad_eq v).symm.trans h)

/-- The PHY has the seven registers of R79, and no other index. -/
theorem phyRegExists_iff : ∀ reg : BitVec 5, phyRegExists reg = true ↔ ¬ noSuchReg reg.toNat := by decide

/-- The model's value of an index is the statements' one, index by index (R153). -/
theorem phyReadValue_eq (reg : BitVec 5) (s : State) : phyReadValue reg s = phyValue s reg.toNat := by
  obtain ⟨⟨n, hn⟩⟩ := reg
  interval_cases n <;> rfl

/-- An index the PHY lacks reads zero (R160). -/
theorem phyValue_noSuchReg {n : Nat} (s : State) (h : noSuchReg n) : phyValue s n = 0#16 := by
  unfold phyValue
  split
  case h_8 => rfl
  all_goals omega

/-! ### The interrupt source -/

/-- With no PHY source pending, an evaluation clears PHYSTS_CHG (R168). -/
theorem evalIsr_no_source (isr : Word) (mask : Byte) : evalIsr isr 0#8 mask = isr &&& ~~~0x00000200#32 := by
  simp [evalIsr]

/-- With every PHY source masked, an evaluation clears PHYSTS_CHG (R168). -/
theorem evalIsr_all_masked (isr : Word) (src : Byte) : evalIsr isr src 0#8 = isr &&& ~~~0x00000200#32 := by
  simp [evalIsr]

theorem phyClearInt_eq (s : State) :
    phyClearInt s = { s with phyInt := 0#8, isr := s.isr &&& ~~~0x00000200#32 } := by
  rw [phyClearInt, phyIrqEval_eq, evalIsr_no_source]

/-- BMSR after a reset, with the link state derived (R154, R162, R163). -/
theorem linkedStatus_reset (up : Bool) :
    linkedStatus up phyStatusReset = if up then 0x782D#16 else 0x7809#16 := by
  cases up <;> rfl

/-- INT_SOURCE after a reset, with the link state derived (R162, R163). -/
theorem linkedInt_reset (up : Bool) : linkedInt up 0#8 = if up then 0xC0#8 else 0x10#8 := by
  cases up <;> rfl

/-- A PHY reset, whole: the registers' reset values with the link state re-derived, and PHYSTS_CHG clear because every
source is masked (R163). -/
theorem phyReset_eq (s : State) :
    phyReset s = { s with
      phyControl := 0x3000#16, phyAdvertise := 0x01E1#16, phyIntMask := 0#8
      phyStatus := if s.linkUp then 0x782D#16 else 0x7809#16, phyInt := if s.linkUp then 0xC0#8 else 0x10#8
      isr := s.isr &&& ~~~0x00000200#32 } := by
  rw [phyReset, phyUpdateLink_eq, evalIsr_all_masked, linkedStatus_reset, linkedInt_reset]
  rfl

/-! ### Reading and writing an index -/

section Index

variable {reg : BitVec 5} (s : State)

theorem phyReadEffect_of_exists (hsrc : reg ≠ 29#5) (hreg : ¬ noSuchReg reg.toNat) : phyReadEffect reg s = s := by
  rw [phyReadEffect, if_neg hsrc, if_pos ((phyRegExists_iff reg).mpr hreg)]

theorem phyReadEffect_noSuchReg (hreg : noSuchReg reg.toNat) : phyReadEffect reg s = diag .phyBadReg s := by
  have hsrc : reg ≠ 29#5 := by
    rintro rfl
    exact absurd hreg (by decide)
  rw [phyReadEffect, if_neg hsrc, if_neg fun h => (phyRegExists_iff reg).mp h hreg]

/-- An index the PHY lacks is logged by a write too (R167). -/
theorem phyWrite_noSuchReg (v : Half) (hreg : noSuchReg reg.toNat) : phyWrite reg v s = diag .phyBadReg s := by
  have hne : ∀ r : BitVec 5, ¬ noSuchReg r.toNat → reg ≠ r := by
    rintro r hr rfl
    exact hr hreg
  rw [phyWrite, if_neg (hne 0#5 (by decide)), if_neg (hne 4#5 (by decide)), if_neg (hne 30#5 (by decide)),
    if_neg fun h => (phyRegExists_iff reg).mp h hreg]

/-- The identification and status registers and INT_SOURCE ignore a write (R152, R167). -/
theorem phyWrite_readOnly (v : Half) (hreg : reg = 1#5 ∨ reg = 2#5 ∨ reg = 3#5 ∨ reg = 29#5) :
    phyWrite reg v s = s := by
  obtain rfl | rfl | rfl | rfl := hreg <;> rfl

end Index

/-- A BMCR write with bit 15 clear (R164). -/
theorem phyWriteBmcr_stores {v : Half} (s : State) (hv : v.getLsbD 15 = false) :
    phyWriteBmcr v s = { s with
      phyControl := v &&& 0x7980#16
      phyStatus := if v.getLsbD 12 then s.phyStatus ||| 0x0020#16 else s.phyStatus } := by
  rw [phyWriteBmcr, hv, if_neg Bool.false_ne_true]
  rfl

theorem phyWriteBmcr_resets {v : Half} (s : State) (hv : v.getLsbD 15 = true) : phyWriteBmcr v s = phyReset s :=
  if_pos hv

/-- An INT_MASK write, whole (R166, R168). -/
theorem phyWriteIntMask_eq (v : Half) (s : State) :
    phyWriteIntMask v s = { s with phyIntMask := v.setWidth 8, isr := evalIsr s.isr s.phyInt (v.setWidth 8) } := by
  rw [phyWriteIntMask, phyIrqEval_eq, extractLsb'_eq_setWidth, BitVec.ushiftRight_zero]

/-! ### The operation -/

/-- A write uses the low half of PHYDATA (R151). -/
theorem phydataWrite_eq (v : Word) : phydataWrite v = v.setWidth 16 := by
  rw [phydataWrite, extractLsb'_eq_setWidth, BitVec.ushiftRight_zero]

/-- The low half of a word has the word's bits (R70). -/
theorem getLsbD_half {w : Word} {i : Nat} (hi : i < 16) : (w.setWidth 16).getLsbD i = w.getLsbD i := by
  rw [BitVec.getLsbD_setWidth, decide_eq_true hi, Bool.true_and]

section Operation

variable {s u : State} {v : Word} {reg : BitVec 5}

/-- A PHYCR write with MIIWR = 0 ends as the read of its index leaves the PHY, the value in PHYDATA and MIIRD clear
(R108, R151). -/
theorem exec_mdioRead (hf : s.faulted = none) (hrd : v.getLsbD 27 = false) (hreg : regad v = reg.toNat)
    (hu : phyReadEffect reg { s with phycr := v } = u) :
    exec (.wrPhycr v) s = .next (ended .nothing
      { u with phycr := v &&& ~~~0x04000000#32, phydata := (phyValue s (regad v)).setWidth 32 <<< 16 }) := by
  have hphycr : u.phycr = v := hu ▸ (phyReadEffect_step ..).phycr
  refine exec_go hf ?_
  rw [opBody, mdioAccess, phycrWrite, hrd, if_neg Bool.false_ne_true, phycrReg_eq hreg]
  dsimp only
  rw [hu, hphycr, phyReadValue_eq, ← hreg]
  rfl

/-- A PHYCR write with MIIWR = 1 ends as the write of its index leaves the PHY, with MIIWR clear (R108, R151). -/
theorem exec_mdioWrite (hf : s.faulted = none) (hwr : v.getLsbD 27 = true) (hreg : regad v = reg.toNat)
    (hu : phyWrite reg (s.phydata.setWidth 16) { s with phycr := v } = u) :
    exec (.wrPhycr v) s = .next (ended .nothing { u with phycr := v &&& ~~~0x08000000#32 }) := by
  have hphycr : u.phycr = v := hu ▸ (phyWrite_step ..).phycr
  refine exec_go hf ?_
  rw [opBody, mdioAccess, phycrWrite, if_pos hwr, phycrReg_eq hreg]
  dsimp only
  rw [phydataWrite_eq, hu, hphycr]
  rfl

end Operation

end Sys2Proof.Machine

namespace Sys2Proof.Claims

open Sys2Proof.Machine

/-- Settles O21: an index is INT_SOURCE, another register of the PHY, or one it lacks, and each reads in its own way. -/
theorem mdioReadReturnsThePhyRegister : Obligations.MdioReadReturnsThePhyRegister := by
  unfold Obligations.MdioReadReturnsThePhyRegister
  intro s v hf hrd
  refine ⟨fun hreg hsrc => ?_, fun hsrc => ?_, fun hreg => ?_⟩
  · have hsrc' : phycrReg v ≠ 29#5 := fun h => hsrc ((regad_eq v).trans (congrArg BitVec.toNat h))
    rw [exec_mdioRead hf hrd (regad_eq v) (phyReadEffect_of_exists _ hsrc' (regad_eq v ▸ hreg))]
  · have hwide : (s.phyInt.setWidth 16).setWidth 32 = s.phyInt.setWidth 32 :=
      BitVec.setWidth_setWidth (by decide)
    rw [exec_mdioRead (reg := 29#5) hf hrd hsrc (phyClearInt_eq _), hsrc, phyValue, hwide]
  · rw [exec_mdioRead hf hrd (regad_eq v) (phyReadEffect_noSuchReg _ (regad_eq v ▸ hreg)), phyValue_noSuchReg s hreg]
    rfl

/-- Settles O22: the write of each index, by its own lemma. -/
theorem mdioWriteStoresThePhyRegister : Obligations.MdioWriteStoresThePhyRegister := by
  unfold Obligations.MdioWriteStoresThePhyRegister
  intro s v hf hwr
  refine ⟨fun hbmcr hrun => ?_, fun hanar => ?_, fun hmask => ?_, fun hro => ?_, fun hreg => ?_⟩
  · rw [← getLsbD_half (by decide)] at hrun
    rw [exec_mdioWrite (reg := 0#5) hf hwr hbmcr (phyWriteBmcr_stores _ hrun), getLsbD_half (by decide)]
  · rw [exec_mdioWrite (reg := 4#5) hf hwr hanar rfl]
    rfl
  · have hlow : (s.phydata.setWidth 16).setWidth 8 = s.phydata.setWidth 8 :=
      BitVec.setWidth_setWidth_of_le _ (by decide)
    rw [exec_mdioWrite (reg := 30#5) hf hwr hmask (phyWriteIntMask_eq _ _), hlow]
  · have hro' : phycrReg v = 1#5 ∨ phycrReg v = 2#5 ∨ phycrReg v = 3#5 ∨ phycrReg v = 29#5 :=
      hro.imp phycrReg_eq (.imp phycrReg_eq (.imp phycrReg_eq phycrReg_eq))
    rw [exec_mdioWrite hf hwr (regad_eq v) (phyWrite_readOnly _ _ hro')]
  · rw [exec_mdioWrite hf hwr (regad_eq v) (phyWrite_noSuchReg _ _ (regad_eq v ▸ hreg))]
    rfl

/-- Settles O20: the link state is set, then the PHY re-derived from it. -/
theorem linkEventRederivesThePhy : Obligations.LinkEventRederivesThePhy := by
  unfold Obligations.LinkEventRederivesThePhy
  intro s up hf
  exact exec_go hf (congrArg _ (phyUpdateLink_eq _))

/-- Settles O23: the write of BMCR is a PHY reset. -/
theorem bmcrResetBitResetsOnlyThePhy : Obligations.BmcrResetBitResetsOnlyThePhy := by
  unfold Obligations.BmcrResetBitResetsOnlyThePhy
  intro s v hf hwr hbmcr hrst
  rw [← getLsbD_half (by decide)] at hrst
  rw [exec_mdioWrite (reg := 0#5) hf hwr hbmcr ((phyWriteBmcr_resets _ hrst).trans (phyReset_eq _))]

end Sys2Proof.Claims

/-! PROOFS. Resets and hazards (R190 to R202): which operation clears a cause bit, where a completed kick stops, and
that both resets are one operation. -/

namespace Sys2Proof.Machine

open Sys2Proof.Claims

/-! ### Clearing a cause bit -/

/-- Which operation clears cause bit `b`, where it left `u` (R201). -/
def ClearsCause (i : Instr) (u : State) (b : Nat) : Prop :=
  (∃ v : Word, v.getLsbD b = true ∧ i = .wrIsr v) ∨ isReset i ∨
    (b = 9 ∧ u.phyInt &&& u.phyIntMask = 0#8 ∧ ((∃ v, i = .wrPhycr v) ∨ ∃ up, i = .hostLink up))

/-- A bit that is gone after a mask was cleared lies in the mask (R86). -/
theorem getLsbD_of_cleared {n b : Nat} {a m : BitVec n} (h0 : a.getLsbD b = true)
    (h1 : (a &&& ~~~m).getLsbD b = false) : m.getLsbD b = true := by
  have hb : b < n := BitVec.lt_of_getLsbD h0
  simpa [BitVec.getLsbD_and, BitVec.getLsbD_not, h0, hb] using h1

/-- An evaluation clears PHYSTS_CHG alone, and only with no unmasked PHY source pending (R168). -/
theorem evalIsr_clears {isr : Word} {src mask : Byte} {b : Nat} (h0 : isr.getLsbD b = true)
    (h1 : (evalIsr isr src mask).getLsbD b = false) : b = 9 ∧ src &&& mask = 0#8 := by
  unfold evalIsr at h1
  split at h1
  · simp [h0] at h1
  · have hb : (BitVec.twoPow 32 9).getLsbD b = true := getLsbD_of_cleared h0 h1
    rw [BitVec.getLsbD_twoPow, Bool.and_eq_true, decide_eq_true_eq, decide_eq_true_eq] at hb
    exact ⟨hb.2.symm, not_not.mp ‹_›⟩

/-- A kick keeps every cause bit. -/
theorem TxStep.keepsCause {s u : State} {b : Nat} (h : TxStep s u) (h0 : s.isr.getLsbD b = true) :
    u.isr.getLsbD b = true := by
  obtain ⟨m, o, x, dg, -, rfl⟩ := h
  simp [h0]

/-- A delivery keeps every cause bit, whatever the state of the ring. -/
theorem RxStep.keepsCause {s u : State} {b : Nat} (h : RxStep s u) (h0 : s.isr.getLsbD b = true) :
    u.isr.getLsbD b = true := by
  obtain ⟨m, x, dg, c, e, -, rfl⟩ := h
  simp [h0]

/-- The PHY clears PHYSTS_CHG alone, with no unmasked source of it pending. -/
theorem PhyStep.clears {s u : State} {b : Nat} (h : PhyStep s u) (h0 : s.isr.getLsbD b = true)
    (h1 : u.isr.getLsbD b = false) : b = 9 ∧ u.phyInt &&& u.phyIntMask = 0#8 := by
  obtain ⟨pc, st, ad, src, mask, isr, dg, rfl | rfl, rfl⟩ := h
  · exact absurd (h0.symm.trans h1) Bool.noConfusion
  · exact evalIsr_clears h0 h1

/-- What an operation left lacks a bit that was set only where the operation is one that clears it. -/
theorem Effect.clearsCause {i : Instr} {s u : State} {b : Nat} (h : Effect i s u) (h0 : s.isr.getLsbD b = true)
    (h1 : u.isr.getLsbD b = false) : ClearsCause i u b := by
  cases i
  case wrIsr v =>
    subst h
    exact .inl ⟨v, getLsbD_of_cleared h0 h1, rfl⟩
  case hostReset => exact .inr (.inl (.inl rfl))
  case wrMaccr v =>
    obtain ⟨hv, -⟩ | ⟨-, e, -, rfl⟩ | ⟨-, -, -, rfl⟩ := h
    · exact .inr (.inl (.inr ⟨v, hv, rfl⟩))
    · simp [h0] at h1
    · simp [h0] at h1
  case wrPhycr v =>
    obtain ⟨w, pd, hw, he⟩ := mdioAccess_step v { s with phycr := v }
    rw [Effect, he] at h
    subst h
    obtain ⟨hb, hp⟩ := hw.clears h0 h1
    exact .inr (.inr ⟨hb, hp, .inl ⟨v, rfl⟩⟩)
  case hostLink up =>
    subst h
    obtain ⟨hb, hp⟩ := (phyUpdateLink_step { s with linkUp := up }).clears h0 h1
    exact .inr (.inr ⟨hb, hp, .inr ⟨up, rfl⟩⟩)
  case hostDeliver f =>
    obtain ⟨-, rfl⟩ | ⟨-, hu⟩ := h
    · simp [h0] at h1
    · simp [hu.keepsCause h0] at h1
  case wrNptxpd v =>
    obtain ⟨-, rfl⟩ | ⟨-, w, cur, hw, rfl⟩ := h
    · simp [h0] at h1
    · simp [hw.keepsCause h0] at h1
  case wrNptxrBadr | wrRxrBadr =>
    obtain ⟨-, rfl⟩ := h
    simp [h0] at h1
  all_goals
    subst h
    simp [h0] at h1

/-- What stopped at a model fault had cleared cause bits in no other way. -/
theorem Raises.clearsCause {i : Instr} {s u : State} {b : Nat} (h : Raises i s u) (h0 : s.isr.getLsbD b = true)
    (h1 : u.isr.getLsbD b = false) : ClearsCause i u b := by
  obtain ⟨w, k, rfl | hw, rfl⟩ := h.effect
  · simp [h0] at h1
  · exact hw.clearsCause h0 h1

/-! ### The stop of a kick -/

theorem TxRaised.faulted {s u : State} (h : TxRaised s u) : u.faulted ≠ none := by
  obtain ⟨w, k, -, rfl⟩ := h
  exact nofun

/-- Where a kick stopped: at `cur` is a descriptor that is not owned, and NO_NPTXBUF is set (R118). -/
def StoppedUnowned (cur : Word) (u : State) : Prop :=
  u.isr.getLsbD 6 = true ∧ owned (descAt u cur) = false

/-- What follows the stop and changes neither memory nor a cause bit keeps it (R124, R172). -/
theorem StoppedUnowned.congr {s t : State} {cur : Word} (h : StoppedUnowned cur s) (hc : t.cfg = s.cfg)
    (hm : t.mem = s.mem) (hi : t.isr = s.isr) : StoppedUnowned cur t := by
  rwa [StoppedUnowned, hi, descAt_congr hc hm]

/-- With an enabled cause pending the line is driven high (R172). -/
theorem lineHigh_of_cause {s : State} {b : Nat} (hi : s.isr.getLsbD b = true) (he : s.ier.getLsbD b = true) :
    lineHigh s = true := by
  refine decide_eq_true fun h => ?_
  have hb : (s.isr &&& s.ier).getLsbD b = true := by rw [BitVec.getLsbD_and, hi, he, Bool.and_self]
  rw [h, BitVec.getLsbD_zero] at hb
  cases hb

/-! ### The two resets -/

/-- Operations with the same body are the same operation (R44). -/
theorem exec_congr {i j : Instr} {s : State} (h : opBody i s = opBody j s) : exec i s = exec j s := by
  cases hf : s.faulted with
  | none => rw [exec_running hf, exec_running hf, h]
  | some k => rw [exec_faulted hf, exec_faulted hf]

/-- A reset does not depend on the MACCR value that may have asked for it (R191, R192). -/
theorem deviceReset_maccr (v : Word) (s : State) : deviceReset { s with maccr := v } = deviceReset s := rfl

end Sys2Proof.Machine

namespace Sys2Proof.Claims

open Sys2Proof.Machine

/-! ### The end of a kick -/

/-- The loop of a kick goes on to one end only: a descriptor that is not owned (R116, R118). -/
theorem Walk.loop_stopsUnowned (fuel : Nat) (w : Walk) :
    Flow.Post StoppedUnowned (fun u => u.faulted ≠ none) (w.loop fuel) := by
  induction fuel generalizing w with
  | zero => trivial
  | succ fuel ih =>
    rcases readDesc_cases w.cur w.st with ⟨-, hfit⟩ | ⟨hr, -⟩
    · cases ho : owned w.desc with
      | false =>
        rw [Walk.loop_unowned fuel hfit ho]
        have hset : (w.st.isr ||| 0x40#32).getLsbD 6 = true := by simp
        exact ⟨hset, (congrArg owned (descAt_congr (by rfl) (by rfl) _)).trans ho⟩
      | true =>
        rw [Walk.loop_owned fuel hfit ho]
        exact Flow.post_bind (Flow.post_mono (txVisit_post ..) (fun _ _ hu => hu) fun _ hu => hu.faulted)
          fun next t _ => ih ⟨t, next.1, next.2⟩
    · rw [Walk.loop, txLoop, hr]
      exact nofun

/-- A kick that raises nothing persists the place its loop ended at (R124). -/
theorem txKick_stopsUnowned (s : State) :
    Flow.Post (fun _ u => StoppedUnowned u.txCur u) (fun u => u.faulted ≠ none) (txKick s) := by
  refine Flow.post_bind (Flow.post_mono (locate_post ..) (fun _ _ ht => ht) ?_) fun c t _ => ?_
  · rintro _ ⟨k, rfl⟩
    exact nofun
  refine Flow.post_bind (Walk.loop_stopsUnowned walkFuel ⟨t, [], c⟩) fun cur u hu => ?_
  exact hu.congr rfl rfl rfl

/-! ### The statements -/

/-- Settles O26: every other operation's effect has each bit of R.ISR that was set before. -/
theorem causeBitsAreSticky : Obligations.CauseBitsAreSticky := by
  unfold Obligations.CauseBitsAreSticky
  intro i s t b h h0 h1
  obtain ⟨-, ⟨r, u, hu, rfl⟩ | ⟨u, hu, rfl⟩⟩ := exec_next h
  · exact hu.clearsCause h0 h1
  · exact hu.clearsCause h0 h1

/-- Settles O36: the loop of a kick goes on to no other end. -/
theorem completedKickStopsAtAnUnownedDescriptor : Obligations.CompletedKickStopsAtAnUnownedDescriptor := by
  unfold Obligations.CompletedKickStopsAtAnUnownedDescriptor
  intro s t v he h ht
  have hstop : StoppedUnowned t.txCur t := by
    have hkick : kickBody s = txKick s := if_pos he
    obtain ⟨u, hu, rfl⟩ | ⟨u, hu, rfl⟩ :=
      exec_silent_post (opBody_kick v s) (hkick ▸ txKick_stopsUnowned s) h
    · exact hu.congr rfl rfl rfl
    · exact absurd ht hu
  obtain ⟨hbit, ho⟩ := hstop
  refine ⟨hbit, ho, fun hier => ?_⟩
  rw [exec_line h ht, lineActive_eq_lineHigh, lineHigh_of_cause hbit hier]

/-- Settles O18: the value written is overwritten by the reset's, and the two bodies are the same. -/
theorem softwareResetIsDeviceReset : Obligations.SoftwareResetIsDeviceReset := by
  unfold Obligations.SoftwareResetIsDeviceReset
  intro s v hv
  have hrst : swRst v = true := hv
  refine ⟨exec_congr ?_, fun t h => ?_⟩
  · rw [opBody, opBody, if_pos hrst, deviceReset_maccr]
  · obtain ⟨-, ⟨r, u, rfl, rfl⟩ | ⟨u, hu, -⟩⟩ := exec_next h
    · rw [deviceReset_eq]
      exact ⟨rfl, rfl⟩
    · exact hu.elim

end Sys2Proof.Claims
